-- ==== Sys2Proof/Word.lean ====
section
/-! DEFINITION. The words and numbers of the JD424: bytes, hosts, lines, levels, masks and host sets. -/

namespace Sys2Proof

/-- One byte of a frame (spec 10, R180: one byte, an unsigned number from 0 to 255). -/
abbrev Byte := BitVec 8

/-- A host number, 0 to 3. Host numbers and port numbers are the same (spec 00, section 5). -/
abbrev Host := Fin 4

/-- A managed line, L0 to L23 (spec 00, section 5). -/
abbrev Line := Fin 24

/-- A level of a line: `false` is 0 and `true` is 1. -/
abbrev Level := Bool

/-- A line mask: bit k names line Lk (R180). -/
abbrev LineMask := BitVec 24

/-- A host set: bit k names host k (R180, R109). -/
abbrev HostSet := BitVec 4

/-- The 16-bit millisecond counter (R139). -/
abbrev Timestamp := BitVec 16

end Sys2Proof
end

