-- ==== Sys2Proof/Syntax.lean ====
section
/-! DEFINITION. The commands and events of the JD424: one constructor of `Instr` per row of spec/opcode_table.json. -/

namespace Sys2Proof

/-- What the board imposes on a line (R64): `opened` is the spec's OPEN. -/
inductive External where
  | low | high | opened
  deriving DecidableEq, Repr

/-- The two causes of a device reset (R189). A pulse on RST# carries how long RST# was low, in nanoseconds. -/
inductive ResetCause where
  | powerOn
  | rstLow (ns : Nat)
  deriving DecidableEq, Repr

/-- The straps as they stand when device reset ends (R105, R156): SUPEN, SUP1:SUP0 and ADS1:ADS0. -/
structure Straps where
  supen : Bool
  sup   : Fin 4
  ads   : Fin 4
  deriving DecidableEq, Repr

/-- The two conditions of a bus (R157). -/
inductive Condition where
  | start | stop
  deriving DecidableEq, Repr

/-- Where SCL stands when an event on the bus is over: `low` after a falling edge, `high` after a rising edge (R176). After a
byte the host sends, `high` is the rising edge that completes it (R158), and `low` the falling edge after that one. After a
byte the part sends, `high` is the rising edge of the ninth clock, and `low` the falling edge after it. -/
inductive Scl where
  | low | high
  deriving DecidableEq, Repr

/-- The commands and events, in the table's order. The commands a host writes name the port whose pending frame their
owner takes (R168); the parameters of the command stand in that port's receive buffer. -/
inductive Instr where
  /-- DEVICE_RESET (R189). -/
  | deviceReset (cause : ResetCause)
  /-- DEVICE_RESET_END (R67, R105, R156): the straps as they are sampled. -/
  | deviceResetEnd (straps : Straps)
  /-- MILLISECOND_TICK (R99): `order` names lines the drive test takes first, for R100 gives no order of the lines. -/
  | millisecondTick (order : List Line)
  /-- SETTLE_EXPIRY (R100). -/
  | settleExpiry (line : Line)
  /-- RENEW_EXPIRY (R23): the lease whose due expiry is taken. -/
  | renewExpiry (lease : Nat)
  /-- WAIT_LAPSE (R39): the waiting claim whose due lapse is taken. -/
  | waitLapse (ticket : Nat)
  /-- OFFER_LAPSE (R54): the lease whose due offer lapse is taken. -/
  | offerLapse (lease : Nat)
  /-- PULSE_COMPLETION (R97): the line whose due completion is taken. -/
  | pulseCompletion (line : Line)
  /-- BUS_TIMEOUT (R176). -/
  | busTimeout (port : Host)
  /-- BUS_ERROR (R175): a condition inside a byte. -/
  | busError (port : Host) (condition : Condition)
  /-- START_CONDITION (R157), at a byte boundary. -/
  | startCondition (port : Host)
  /-- STOP_CONDITION (R157), at a byte boundary. -/
  | stopCondition (port : Host)
  /-- ADDRESS_BYTE (R159): the seven address bits and the direction bit. -/
  | addressByte (port : Host) (byte : Byte)
  /-- COMMAND_FRAME (R160 to R162): bytes the host sends after a write address, one after another. A list that ends
  before the CRC byte leaves the frame in reception, and one with no byte is an edge of SCL (R158, R176). -/
  | commandFrame (port : Host) (bytes : List Byte) (scl : Scl)
  /-- RESPONSE_READ (R158, R172): the host's answer (`true` is ACK) to each byte the part sends, from the byte in progress
  on; where there is none, an edge of SCL. -/
  | responseRead (port : Host) (answers : List Bool) (scl : Scl)
  /-- CLAIM (R11 to R15). -/
  | claim (port : Host)
  /-- CANCEL_CLAIM (R41). -/
  | cancelClaim (port : Host)
  /-- RELEASE (R16). -/
  | release (port : Host)
  /-- RENEW (R21). -/
  | renew (port : Host)
  /-- RENEW_ALL (R22). -/
  | renewAll (port : Host)
  /-- QUERY_LEASE (R25, R26). -/
  | queryLease (port : Host)
  /-- OFFER (R47). -/
  | offer (port : Host)
  /-- ACCEPT (R50, R51). -/
  | accept (port : Host)
  /-- DECLINE (R53). -/
  | decline (port : Host)
  /-- REVOKE (R107). -/
  | revoke (port : Host)
  /-- RESERVE (R110). -/
  | reserve (port : Host)
  /-- DETACH (R113). -/
  | detach (port : Host)
  /-- CLEAR_HOST (R113). -/
  | clearHost (port : Host)
  /-- SET_LEVEL (R73, R74). -/
  | setLevel (port : Host)
  /-- CONFIGURE (R75, R76): a CONFIGURE whose function code is not MIRROR. -/
  | configure (port : Host)
  /-- CONFIGURE_MIRROR (R75, R89): a CONFIGURE whose function code is MIRROR. -/
  | configureMirror (port : Host)
  /-- PULSE (R94, R95). -/
  | pulse (port : Host)
  /-- READ_LINES (R78). -/
  | readLines (port : Host)
  /-- QUERY_LINE (R79). -/
  | queryLine (port : Host)
  /-- EXTERNAL_STATE_CHANGE (R64). -/
  | externalStateChange (line : Line) (external : External)
  /-- FILTERED_REPORT (R90): the line whose oldest report the line matrix takes. -/
  | filteredReport (line : Line)
  /-- ARRIVAL (R125): the line whose oldest arrival the input monitor takes. -/
  | arrival (line : Line)
  /-- SAMPLE_TICK (R127). -/
  | sampleTick
  /-- SUBSCRIBE (R123). -/
  | subscribe (port : Host)
  /-- UNSUBSCRIBE (R124). -/
  | unsubscribe (port : Host)
  /-- POLL (R143, R144). -/
  | poll (port : Host)
  /-- ATTENTION (R150). -/
  | attention (port : Host)
  deriving DecidableEq, Repr

end Sys2Proof
end

