-- ==== Sys2Proof/Decode.lean ====
section
/-! DEFINITION. The command a word spells by the table's bits. spec/opcode_table.json gives no row any bits (its rows
are steps of the part, not words; spec 98: 42 rows unread as bits), so no word spells a command. The bytes of the
frames a host writes are decoded by the port engine itself: Machine/Operands.lean. -/

namespace Sys2Proof

/-- No row of the table carries bits, so every word is answered none. -/
def decodeTableWord (_nbits _w : Nat) : Option Instr := none

end Sys2Proof
end

