-- ==== Sys2Proof/Machine/State.lean ====
section
/-! DEFINITION. Everything the spec gives the JD424 to hold, as plain data, and its values after device reset. -/

namespace Sys2Proof.Machine

/-- The model raises no fault: no rule of the spec stops the part. (Closed: it has no constructor.) -/
inductive Fault where
  deriving DecidableEq, Repr

/-- Why a command has no meaning. -/
inductive Refusal where
  /-- Raised by `exec` alone, for a row whose meaning is not written yet; no arm of this model raises it. Safe: the
  machine stops. -/
  | notModelled (mnemonic : String)
  deriving DecidableEq, Repr

/-! ### Leases and claims (spec 01, 02, 03) -/

/-- The four fallbacks (R80). -/
inductive Fallback where
  | float | hold | low | high
  deriving DecidableEq, Repr

/-- One member of a line set with its fallback (R2, R29). -/
structure LineEntry where
  line     : Line
  fallback : Fallback
  deriving DecidableEq, Repr

/-- The offer fields of a lease, present exactly in state OFFERED (R2, R3, R46). -/
structure Offer where
  target    : Host
  remaining : Nat
  deriving DecidableEq, Repr

/-- A live lease (R2). It is OFFERED while `offer` is present and ACTIVE otherwise (R3). `remaining` is absent exactly
when the renew interval is 0. -/
structure Lease where
  id        : Nat
  holder    : Host
  entries   : List LineEntry
  interval  : Nat
  remaining : Option Nat
  offer     : Option Offer
  deriving DecidableEq, Repr

/-- A waiting claim (R29). -/
structure Claim where
  ticket    : Nat
  host      : Host
  entries   : List LineEntry
  interval  : Nat
  remaining : Nat
  deriving DecidableEq, Repr

/-! ### Lines (spec 04, 05) -/

/-- Direction of a line: IN or OUT (R61). -/
inductive Direction where
  | input | output
  deriving DecidableEq, Repr

/-- Drive of a line (R61). -/
inductive Drive where
  | hiz | sourceOpen | sinkOpen | pushPull
  deriving DecidableEq, Repr

/-- Pull of a line (R61). -/
inductive Pull where
  | noPull | up | down
  deriving DecidableEq, Repr

/-- The function of a line with the fields that exist only under it (R61): a mirror's source, invert and fault (R87), a
pulse's level, revert level and remaining milliseconds. -/
inductive LineFunction where
  | plain
  | mirror (source : Line) (invert : Bool) (fault : Bool)
  | pulse (level : Level) (revert : Level) (remaining : Nat)
  deriving DecidableEq, Repr

/-- The binding of a held line (R68): the spec's holder lease id (1 to 255) and holder host. -/
structure Binding where
  lease : Nat
  host  : Host
  deriving DecidableEq, Repr

/-- The record of one line (R61). A free line has no binding: its holder lease id is 0 and its holder host absent. -/
structure LineRec where
  direction : Direction
  drive     : Drive
  pull      : Pull
  level     : Level
  function  : LineFunction
  holder    : Option Binding
  settle    : Nat
  mismatch  : Bool
  raw       : Level
  keeper    : Level
  deriving DecidableEq, Repr

/-! ### Input monitor (spec 07) -/

/-- Which changes of level a subscription reports (R122). -/
inductive EdgeMode where
  | rise | fall | both
  deriving DecidableEq, Repr

/-- Which level a subscription watches (R122). -/
inductive Filter where
  | raw | filtered
  deriving DecidableEq, Repr

/-- A subscription of one host on one line (R122). -/
structure Subscription where
  mode   : EdgeMode
  filter : Filter
  deriving DecidableEq, Repr

/-- What the input monitor holds for one line (R121): the last three samples are `oldest`, `middle`, `newest`. -/
structure InputRec where
  seen     : Level
  oldest   : Level
  middle   : Level
  newest   : Level
  filtered : Level
  deriving DecidableEq, Repr

/-- A change of level on its way between the line matrix and the input monitor: an arrival (R66) or a report (R128). -/
structure LevelChange where
  line  : Line
  level : Level
  deriving DecidableEq, Repr

/-! ### Event queues (spec 08) -/

/-- The reasons of R188. -/
inductive Reason where
  | timeout | denied | superseded | expired | revoked | declined | targetGone | released | holderGone
  deriving DecidableEq, Repr

/-- An event record's kind with the fields the kind uses (R137). -/
inductive Event where
  | edge (line : Line) (level : Level) (filter : Filter)
  | granted (ticket : Nat) (lease : Nat)
  | claimLapsed (ticket : Nat) (reason : Reason)
  | leaseLost (lease : Nat) (reason : Reason)
  | offered (lease : Nat) (holder : Host) (lines : Nat)
  | offerLapsed (lease : Nat) (reason : Reason)
  | offerWithdrawn (lease : Nat) (reason : Reason)
  | transferred (lease : Nat) (holder : Host)
  | pulseDone (line : Line) (lease : Nat)
  | mirrorFault (line : Line) (source : Line)
  | mismatch (line : Line) (driven : Level)
  | overflow (lost : Nat)
  | cleared (supervisor : Host)
  deriving DecidableEq, Repr

/-- An event record as inserted (R137, R140). -/
structure EventRecord where
  event : Event
  seq   : Byte
  time  : Timestamp
  deriving DecidableEq, Repr

/-- One event queue EQn with its attention output (R136, R149): `attention` is ATNn# asserted. -/
structure EventQueue where
  records   : List EventRecord
  counter   : Byte
  lastAck   : Byte
  lost      : Nat
  enable    : Bool
  attention : Bool
  deriving DecidableEq, Repr

/-! ### Host ports (spec 09, 10) -/

/-- The 23 commands a host writes (R181). -/
inductive Cmd where
  | identify | claim | cancelClaim | release | renew | renewAll | queryLease | offer | accept | decline
  | setLevel | configure | pulse | readLines | queryLine | subscribe | unsubscribe | poll | attention
  | detach | revoke | reserve | clearHost
  deriving DecidableEq, Repr

/-- The status codes of R184 that a result carries (EMPTY and PENDING appear in read images only). -/
inductive Status where
  | ok | queued | badCommand | badLength | badParam | notSupervisor | noLease | notHolder | held | ownLine | denied
  | tableFull | queueFull | busy | noOffer | noClaim | badSeq
  deriving DecidableEq, Repr

/-- The response slot of a port (R164). -/
inductive Slot where
  | empty
  | pending (tag : Byte) (cmd : Cmd)
  | ready (status : Status) (tag : Byte) (code : Byte) (data : List Byte)
  deriving DecidableEq, Repr

/-- The repeat guard of a port, when present (R170). -/
structure RepeatGuard where
  tag  : Byte
  code : Byte
  crc  : Byte
  deriving DecidableEq, Repr

/-- The transmit image (R155, R171): the bytes latched and the position reached in them, which is the byte being sent and
how many of its bits have been clocked (R158). A position at the end means filler. -/
structure Image where
  bytes    : List Byte
  position : Nat
  bit      : Nat
  deriving DecidableEq, Repr

/-- The bus timer (R176). -/
structure BusTimer where
  remaining : Nat
  running   : Bool
  deriving DecidableEq, Repr

/-- The transaction state (R155). The spec's IDLE is the first three: waiting for a start, receiving an address byte
(R159), and standing aside until the next start or stop. -/
inductive Txn where
  | waiting | addressing | aside | rx | tx
  deriving DecidableEq, Repr

/-- What the part does with SDAn (R158, R190). -/
inductive Sda where
  | released | low
  deriving DecidableEq, Repr

/-- The ACK of a received byte (R158): `decided` once the byte is complete, at the rising edge of its eighth clock;
`driven` from the falling edge after it on, while SCL is low; `clocked` in the high phase of the ninth clock. The falling
edge after that ends it. -/
inductive Acknowledge where
  | absent | decided | driven | clocked
  deriving DecidableEq, Repr

/-- The state of one host port engine (R155) with the ACK under way and its data pin. `ticked` says of a command that waits
for the line matrix or the input monitor that its owner has taken a tick since the hand-off (R70, R123). `acks` and `sent`
are the model's own traces: the answers given since the last start (`true` is ACK) and the bytes sent since the last read
address. -/
structure PortState where
  txn    : Txn
  buffer : List Byte
  crc    : Option Byte
  image  : Option Image
  timer  : BusTimer
  slot   : Slot
  repeatGuard : Option RepeatGuard
  ticked : Bool
  ack    : Acknowledge
  sda    : Sda
  acks   : List Bool
  sent   : List Byte
  deriving DecidableEq, Repr

/-! ### The whole part -/

/-- The state of the JD424, the board's side of its lines, and the queue of commands that wait. -/
structure State where
  /-- Device reset is in force (R189). -/
  inReset : Bool
  /-- The live leases, in ascending order of lease id (R1). -/
  leases : List Lease
  /-- The lease id counter (R4). -/
  leaseCounter : Nat
  /-- The claim wait queue, the oldest first (R28). -/
  queue : List Claim
  /-- The ticket counter (R31). -/
  ticketCounter : Nat
  /-- The lease request arbiter's last-served port (R6). -/
  lastServed : Host
  /-- The supervisor port (R105). -/
  supervisor : Option Host
  /-- The reservation table: the allowed-host set of each line (R109). -/
  allowed : Vector HostSet 24
  /-- The line records (R61). -/
  lines : Vector LineRec 24
  /-- The external line states (R64): held by the board, not by the part. -/
  external : Vector External 24
  /-- The input monitor's levels (R121). -/
  inputs : Vector InputRec 24
  /-- The subscription table, by host and line (R122). -/
  subs : Vector (Vector (Option Subscription) 24) 4
  /-- Arrivals handed to the input monitor and not yet taken (R66): one list for each event that made some. -/
  arrivals : List (List LevelChange)
  /-- Reports handed to the line matrix and not yet taken (R128): one list for each sample tick that made some. -/
  reports : List (List LevelChange)
  /-- The lines whose arrival of the end of device reset is not yet taken (R67, R133). -/
  startUp : List Line
  /-- The event queues EQ0 to EQ3 (R136). -/
  queues : Vector EventQueue 4
  /-- The timestamp counter (R139). -/
  timestamp : Timestamp
  /-- The port engines HPE0 to HPE3 (R155). -/
  ports : Vector PortState 4
  /-- The part's bus address (R156). -/
  busAddress : BitVec 7
  /-- The MODEL's own: how many free values have been used (log entry 1). -/
  freeCount : Nat
  /-- The MODEL's own: the commands that wait, first in, first out. -/
  pending : List Instr
  deriving DecidableEq, Repr

/-- A line record after device reset (R61). -/
def LineRec.reset : LineRec where
  direction := .input
  drive     := .hiz
  pull      := .noPull
  level     := false
  function  := .plain
  holder    := none
  settle    := 0
  mismatch  := false
  raw       := false
  keeper    := false

/-- The input monitor's record of a line after device reset (R121). -/
def InputRec.reset : InputRec := ⟨false, false, false, false, false⟩

/-- An event queue after device reset (R136): empty, counter 0, last acknowledged 255, lost 0, attention on. -/
def EventQueue.reset : EventQueue where
  records   := []
  counter   := 0
  lastAck   := 255
  lost      := 0
  enable    := true
  attention := false

/-- A port engine after device reset (R155, R179). -/
def PortState.reset : PortState where
  txn    := .waiting
  buffer := []
  crc    := none
  image  := none
  timer  := ⟨0, false⟩
  slot   := .empty
  repeatGuard := none
  ticked := false
  ack    := .absent
  sda    := .released
  acks   := []
  sent   := []

/-- The part in device reset, as R189 says: every block holds the values its chapter gives for device reset, and holds
them until DEVICE_RESET_END. The straps are not sampled yet, and the board holds no line (log entries 2 and 3). -/
def State.reset : State where
  inReset       := true
  leases        := []
  leaseCounter  := 1
  queue         := []
  ticketCounter := 1
  lastServed    := 3
  supervisor    := none
  allowed       := Vector.replicate 24 0b1111#4
  lines         := Vector.replicate 24 LineRec.reset
  external      := Vector.replicate 24 External.opened
  inputs        := Vector.replicate 24 InputRec.reset
  subs          := Vector.replicate 4 (Vector.replicate 24 none)
  arrivals      := []
  reports       := []
  startUp       := []
  queues        := Vector.replicate 4 EventQueue.reset
  timestamp     := 0
  ports         := Vector.replicate 4 PortState.reset
  busAddress    := 0x38#7
  freeCount     := 0
  pending       := []

end Sys2Proof.Machine
end

