-- ==== Sys2Proof/Machine/Tables.lean ====
section
/-! DEFINITION. The part's figures, the lists of its hosts and lines, and reading and writing its tables. -/

namespace Sys2Proof.Machine

/-- Hosts 0 to 3. -/
def allHosts : List Host := [0, 1, 2, 3]

/-- Lines 0 to 23, ascending. -/
def allLines : List Line :=
  [0, 1, 2, 3, 4, 5, 6, 7, 8, 9, 10, 11, 12, 13, 14, 15, 16, 17, 18, 19, 20, 21, 22, 23]

/-- Entries of the lease table (R1). -/
def leaseEntries : Nat := 16

/-- Places of the wait queue (R28). -/
def waitPlaces : Nat := 8

/-- Waiting claims a host may have (R30). -/
def claimsPerHost : Nat := 2

/-- Records an event queue holds (R136). -/
def queueRecords : Nat := 32

/-- Milliseconds in one unit of a renew interval or wait limit (spec 00, section 3). -/
def unitMs : Nat := 20

/-- Milliseconds an offer stands (R49). -/
def offerMs : Nat := 200

/-- Milliseconds of the settle (R99). -/
def settleMs : Nat := 4

/-- Milliseconds of the bus timer (R176). -/
def busTimeoutMs : Nat := 25

/-- Every entry of a table changed by `f`. -/
def mapTable {α : Type} {n : Nat} (f : α → α) (t : Vector α n) : Vector α n :=
  ⟨⟨t.toArray.toList.map f⟩, by simp⟩

/-- The entry of host `h` changed by `f`. -/
def updateHost {α : Type} (t : Vector α 4) (h : Host) (f : α → α) : Vector α 4 := t.set h (f t[h])

/-- The entry of line `i` changed by `f`. -/
def updateLine {α : Type} (t : Vector α 24) (i : Line) (f : α → α) : Vector α 24 := t.set i (f t[i])

/-- The lines of a mask, ascending (R180). -/
def maskLines (m : LineMask) : List Line := allLines.filter fun i => m.getLsbD i.val

/-- Host `h` belongs to the host set (R180). -/
def HostSet.has (a : HostSet) (h : Host) : Bool := a.getLsbD h.val

/-- The record of line `i`. -/
def State.line (s : State) (i : Line) : LineRec := s.lines[i]

/-- The record of line `i` replaced. -/
def State.setLine (s : State) (i : Line) (r : LineRec) : State := { s with lines := s.lines.set i r }

/-- The port engine of port `p`. -/
def State.port (s : State) (p : Host) : PortState := s.ports[p]

/-- The port engine of port `p` changed by `f`. -/
def State.updatePort (s : State) (p : Host) (f : PortState → PortState) : State :=
  { s with ports := updateHost s.ports p f }

/-- The event queue of host `h`. -/
def State.eventQueue (s : State) (h : Host) : EventQueue := s.queues[h]

/-- The event queue of host `h` changed by `f`. -/
def State.updateQueue (s : State) (h : Host) (f : EventQueue → EventQueue) : State :=
  { s with queues := updateHost s.queues h f }

/-- The input monitor's record of line `i`. -/
def State.input (s : State) (i : Line) : InputRec := s.inputs[i]

/-- The subscription of host `h` on line `i`, if it has one (R122). -/
def State.subscription (s : State) (h : Host) (i : Line) : Option Subscription := s.subs[h][i]

/-- The allowed-host set of line `i` (R109). -/
def State.allowedOn (s : State) (i : Line) : HostSet := s.allowed[i]

/-- Host `h` is allowed on every line of the entries (R109). -/
def State.allowsAll (s : State) (h : Host) (entries : List LineEntry) : Bool :=
  entries.all fun e => HostSet.has (s.allowedOn e.line) h

/-- Line `i` belongs to the line set. -/
def coversLine (entries : List LineEntry) (i : Line) : Bool := entries.any fun e => e.line == i

/-- Two line sets share a line. -/
def sharesLine (a b : List LineEntry) : Bool := a.any fun e => coversLine b e.line

/-- The live lease with the id (R1: a lease is found by its lease id). An id of 0 names no lease (R9). -/
def State.findLease (s : State) (id : Nat) : Option Lease := s.leases.find? fun l => l.id == id

/-- The leases of host `h`, ascending by id. -/
def State.leasesOf (s : State) (h : Host) : List Lease := s.leases.filter fun l => l.holder == h

/-- The waiting claim with the ticket (R28). -/
def State.findClaim (s : State) (ticket : Nat) : Option Claim := s.queue.find? fun c => c.ticket == ticket

/-- Line `i` is bound to a live lease: it is not free (R1, R68). -/
def State.lineHeld (s : State) (i : Line) : Bool := s.leases.any fun l => coversLine l.entries i

end Sys2Proof.Machine
end

