-- ==== Sys2Proof/Machine/Flags.lean ====
section
/-! DEFINITION. What the part derives from its records: driven value, raw level, settle and mismatch, the drive test's
condition, the attention law, and the matching of edges. -/

namespace Sys2Proof.Machine

/-- R62: the level an output stage drives, if it drives. -/
def driveTable : Drive → Level → Option Level
  | .hiz,        _     => none
  | .sourceOpen, false => none
  | .sourceOpen, true  => some true
  | .sinkOpen,   false => some false
  | .sinkOpen,   true  => none
  | .pushPull,   v     => some v

/-- R63: what a faulted mirror drives. -/
def faultedDrive : Drive → Option Level
  | .hiz | .sourceOpen    => none
  | .sinkOpen | .pushPull => some false

/-- The mirror fault of a line (R61, R87): set only on a faulted mirror. -/
def LineRec.faulted (r : LineRec) : Bool :=
  match r.function with
  | .mirror _ _ fault => fault
  | .plain | .pulse _ _ _ => false

/-- R63: the driven value of a line, none, 0 or 1. -/
def LineRec.driven (r : LineRec) : Option Level :=
  match r.direction with
  | .input  => none
  | .output => if r.faulted then faultedDrive r.drive else driveTable r.drive r.level

/-- R65: the raw level of a line under the external state. -/
def rawLevel (external : External) (r : LineRec) : Level :=
  match external with
  | .low  => false
  | .high => true
  | .opened =>
    match r.driven with
    | some v => v
    | none =>
      match r.direction, r.pull with
      | .input, .up   => true
      | .input, .down => false
      | _, _          => r.keeper

/-- R63, R99, R101: `new`, with the settle restarted and the mismatch flag cleared where the driven value differs from
that of `old`. -/
def LineRec.settled (old new : LineRec) : LineRec :=
  if new.driven = old.driven then new else { new with settle := settleMs, mismatch := false }

/-- R100: the value a drive test finds contested, when line record `r` is tested against filtered level `v`. -/
def LineRec.contested (r : LineRec) (v : Level) : Option Level :=
  if r.holder.isSome && r.settle == 0 && !r.mismatch then
    match r.driven with
    | some d => if v = d then none else some d
    | none   => none
  else none

/-- R149: ATNn# is asserted exactly when the attention enable is on and the queue holds a record. -/
def EventQueue.attend (q : EventQueue) : EventQueue := { q with attention := q.enable && !q.records.isEmpty }

/-- R126: a change to `v` matches the edge mode. -/
def EdgeMode.matchesEdge : EdgeMode → Level → Bool
  | .rise, v => v
  | .fall, v => !v
  | .both, _ => true

end Sys2Proof.Machine
end

