-- ==== Sys2Proof/Machine/Operands.lean ====
section
/-! DEFINITION. How the bytes of a command frame are read: command codes and lengths, line entries, masks, host sets and
the enumerated parameters (spec 10, R180 to R183). -/

namespace Sys2Proof.Machine

/-- Parameter byte `k` (counted from 0) of the parameters. -/
def param (ps : List Byte) (k : Nat) : Byte := ps.getD k 0

/-- R180: a 16-bit number, least significant byte first. -/
def param16 (ps : List Byte) (k : Nat) : Nat := (param ps k).toNat + 256 * (param ps (k + 1)).toNat

/-- R180: a line mask, three bytes, least significant byte first. -/
def paramMask (ps : List Byte) (k : Nat) : LineMask := param ps (k + 2) ++ param ps (k + 1) ++ param ps k

/-- The line a byte names, if it is 0 to 23. -/
def lineOf (n : Nat) : Option Line := if h : n < 24 then some ⟨n, h⟩ else none

/-- The host a byte names, if it is 0 to 3. -/
def hostOf (n : Nat) : Option Host := if h : n < 4 then some ⟨n, h⟩ else none

/-- R182: the fallback a code of 0 to 3 names. -/
def fallbackOf : Nat → Option Fallback
  | 0 => some .float
  | 1 => some .hold
  | 2 => some .low
  | 3 => some .high
  | _ => none

/-- R182: bits 4 to 0 hold the line number, bits 7 to 5 the fallback code. -/
def entryOf (b : Byte) : Option LineEntry :=
  match lineOf (b.extractLsb' 0 5).toNat, fallbackOf (b.extractLsb' 5 3).toNat with
  | some l, some f => some ⟨l, f⟩
  | _, _ => none

/-- Line numbers in strictly ascending order (R11, R182). -/
def ascending : List LineEntry → Bool
  | [] => true
  | [_] => true
  | a :: b :: rest => decide (a.line < b.line) && ascending (b :: rest)

/-- R182: every line entry decoded, if each names a line and a fallback. -/
def decodeEntries : List Byte → Option (List LineEntry)
  | [] => some []
  | b :: bs =>
    match entryOf b, decodeEntries bs with
    | some e, some es => some (e :: es)
    | _, _ => none

/-- R11, R182: the line entries of a claim, if its form is right. -/
def claimEntries (bytes : List Byte) : Option (List LineEntry) :=
  match decodeEntries bytes with
  | some es => if !es.isEmpty && ascending es then some es else none
  | none => none

/-- R183: direction codes. -/
def directionOf : Nat → Option Direction
  | 0 => some .input
  | 1 => some .output
  | _ => none

/-- R183: drive codes. -/
def driveOf : Nat → Option Drive
  | 0 => some .hiz
  | 1 => some .sourceOpen
  | 2 => some .sinkOpen
  | 3 => some .pushPull
  | _ => none

/-- R183: pull codes. -/
def pullOf : Nat → Option Pull
  | 0 => some .noPull
  | 1 => some .up
  | 2 => some .down
  | _ => none

/-- R183: a code of 0 or 1 (a level, an invert, an ack flag, on/off). -/
def bitOf : Nat → Option Bool
  | 0 => some false
  | 1 => some true
  | _ => none

/-- R183: edge mode codes. -/
def edgeModeOf : Nat → Option EdgeMode
  | 0 => some .rise
  | 1 => some .fall
  | 2 => some .both
  | _ => none

/-- R183: filter codes. -/
def filterOf : Nat → Option Filter
  | 0 => some .raw
  | 1 => some .filtered
  | _ => none

/-- R180, R110: a host set, if it names no host above 3. -/
def hostSetOf (b : Byte) : Option HostSet := if b.extractLsb' 4 4 = 0 then some (b.extractLsb' 0 4) else none

/-- R181: the command codes. -/
def Cmd.code : Cmd → Byte
  | .identify => 0x01
  | .claim => 0x10
  | .cancelClaim => 0x11
  | .release => 0x12
  | .renew => 0x13
  | .renewAll => 0x14
  | .queryLease => 0x15
  | .offer => 0x18
  | .accept => 0x19
  | .decline => 0x1A
  | .setLevel => 0x20
  | .configure => 0x21
  | .pulse => 0x22
  | .readLines => 0x23
  | .queryLine => 0x24
  | .subscribe => 0x30
  | .unsubscribe => 0x31
  | .poll => 0x38
  | .attention => 0x39
  | .detach => 0x40
  | .revoke => 0x48
  | .reserve => 0x49
  | .clearHost => 0x4A

/-- The 23 commands (R181). -/
def allCmds : List Cmd :=
  [.identify, .claim, .cancelClaim, .release, .renew, .renewAll, .queryLease, .offer, .accept, .decline, .setLevel,
   .configure, .pulse, .readLines, .queryLine, .subscribe, .unsubscribe, .poll, .attention, .detach, .revoke, .reserve,
   .clearHost]

/-- R181: the command a code names, if it names one. -/
def cmdOf (code : Byte) : Option Cmd := allCmds.find? fun c => c.code == code

/-- R181: the one parameter length a command other than CLAIM allows; for CLAIM the least it allows (R167). -/
def Cmd.fixedLength : Cmd → Nat
  | .claim => 3
  | .cancelClaim | .release | .renew | .queryLease | .accept | .decline | .queryLine | .attention | .revoke
  | .clearHost => 1
  | .identify | .renewAll | .readLines | .detach => 0
  | .offer => 2
  | .setLevel => 7
  | .configure => 8
  | .pulse | .subscribe => 5
  | .unsubscribe | .poll => 3
  | .reserve => 4

/-- R167: the length suits the command. A CLAIM has at least 3 parameter bytes and exactly 3 plus its count. -/
def Cmd.lengthOk (c : Cmd) (ps : List Byte) : Bool :=
  match c with
  | .claim => decide (3 ≤ ps.length) && ps.length == 3 + (param ps 2).toNat
  | c => ps.length == c.fixedLength

/-- The blocks that own commands (R168). -/
inductive Owner where
  | leaseController | lineMatrix | inputMonitor | eventQueue | portEngine
  deriving DecidableEq, Repr

/-- R5, R168: the owner of a command. -/
def Cmd.owner : Cmd → Owner
  | .claim | .cancelClaim | .release | .renew | .renewAll | .offer | .accept | .decline | .queryLease | .revoke
  | .reserve | .detach | .clearHost => .leaseController
  | .setLevel | .configure | .pulse | .readLines | .queryLine => .lineMatrix
  | .subscribe | .unsubscribe => .inputMonitor
  | .poll | .attention => .eventQueue
  | .identify => .portEngine

/-- The parameter bytes of the frame a receive buffer holds: command, tag, length, parameters, CRC (R155). -/
def frameParams (buffer : List Byte) : List Byte := (buffer.drop 3).take (buffer.getD 2 0).toNat

/-- The CRC byte of the frame a receive buffer holds. -/
def frameCrc (buffer : List Byte) : Byte := buffer.getD (3 + (buffer.getD 2 0).toNat) 0

end Sys2Proof.Machine
end

