-- ==== Sys2Proof/Machine/Formats.lean ====
section
/-! DEFINITION. How the part writes bytes: the frame check (R174), the status codes (R184), the response data of R185 to
R187, IDENTIFY (R178), the event records (R188) and the transmit image (R171). -/

namespace Sys2Proof.Machine

/-- R174: one shift of the CRC register. -/
def crcShift (r : Byte) : Byte := if r.msb then (r <<< 1) ^^^ 0x31#8 else r <<< 1

/-- R174: one byte taken into the CRC register. -/
def crcByte (r b : Byte) : Byte :=
  crcShift (crcShift (crcShift (crcShift (crcShift (crcShift (crcShift (crcShift (r ^^^ b))))))))

/-- R174: the CRC of the covered bytes; the register starts at 0xFF. -/
def crcOf (bytes : List Byte) : Byte := bytes.foldl crcByte 0xFF#8

/-- A number as one byte. -/
def byteOf (n : Nat) : Byte := BitVec.ofNat 8 n

/-- A level as one byte. -/
def levelByte (v : Level) : Byte := if v then 1 else 0

/-- R180: a 16-bit number, least significant byte first. -/
def bytes16 (n : Nat) : List Byte := [byteOf n, byteOf (n / 256)]

/-- The mask of the lines that satisfy `f`. -/
def maskOf (f : Line → Bool) : LineMask :=
  allLines.foldl (fun m i => if f i then m ||| (1#24 <<< i.val) else m) 0

/-- R180: a line mask, three bytes, least significant byte first. -/
def maskBytes (m : LineMask) : List Byte := [m.extractLsb' 0 8, m.extractLsb' 8 8, m.extractLsb' 16 8]

/-- R184: the status codes. -/
def Status.code : Status → Byte
  | .ok => 0x00
  | .queued => 0x01
  | .badCommand => 0x10
  | .badLength => 0x11
  | .badParam => 0x12
  | .notSupervisor => 0x13
  | .noLease => 0x20
  | .notHolder => 0x21
  | .held => 0x22
  | .ownLine => 0x23
  | .denied => 0x24
  | .tableFull => 0x25
  | .queueFull => 0x26
  | .busy => 0x27
  | .noOffer => 0x28
  | .noClaim => 0x29
  | .badSeq => 0x30

/-- R184: the status a read image shows while the slot is EMPTY. -/
def emptyCode : Byte := 0xF0

/-- R184: the status a read image shows while the slot is PENDING. -/
def pendingCode : Byte := 0xF1

/-- R182: the code of a fallback. -/
def Fallback.code : Fallback → Nat
  | .float => 0
  | .hold => 1
  | .low => 2
  | .high => 3

/-- R182: a line entry as one byte. -/
def entryByte (e : LineEntry) : Byte := byteOf (e.fallback.code * 32 + e.line.val)

/-- R186: the record of a live lease. -/
def leaseBytes (l : Lease) : List Byte :=
  [byteOf l.id, byteOf l.holder.val, if l.offer.isSome then 1 else 0, byteOf l.interval]
    ++ bytes16 (l.remaining.getD 0xFFFF)
    ++ [match l.offer with | some o => byteOf o.target.val | none => 0xFF,
        match l.offer with | some o => byteOf o.remaining | none => 0xFF,
        byteOf l.entries.length]
    ++ l.entries.map entryByte

/-- R186: the listing of the table, ids ascending. -/
def listingBytes (leases : List Lease) : List Byte := byteOf leases.length :: leases.map fun l => byteOf l.id

/-- R183: direction codes. -/
def Direction.code : Direction → Byte
  | .input => 0
  | .output => 1

/-- R183: drive codes. -/
def Drive.code : Drive → Byte
  | .hiz => 0
  | .sourceOpen => 1
  | .sinkOpen => 2
  | .pushPull => 3

/-- R183: pull codes. -/
def Pull.code : Pull → Byte
  | .noPull => 0
  | .up => 1
  | .down => 2

/-- R187, bytes 6 to 8: function, mirror source (0xFF when absent) and mirror invert. -/
def functionBytes : LineFunction → List Byte
  | .plain => [0, 0xFF, 0]
  | .mirror source invert _ => [1, byteOf source.val, levelByte invert]
  | .pulse _ _ _ => [2, 0xFF, 0]

/-- R187, bytes 10 to 13: pulse level and revert level (0xFF when absent) and pulse remaining (0 when absent). -/
def pulseBytes : LineFunction → List Byte
  | .pulse level revert remaining => [levelByte level, levelByte revert] ++ bytes16 remaining
  | .plain | .mirror _ _ _ => [0xFF, 0xFF, 0, 0]

/-- R187, bytes 15 and 16: holder lease id (0 when free) and holder host (0xFF when absent). -/
def holderBytes : Option Binding → List Byte
  | some b => [byteOf b.lease, byteOf b.host.val]
  | none => [0, 0xFF]

/-- Up to three flags as the low bits of a byte. -/
def flagByte (b0 b1 b2 : Bool) : Byte :=
  byteOf ((if b0 then 1 else 0) + (if b1 then 2 else 0) + (if b2 then 4 else 0))

/-- R187: the record of a line with its filtered level and its allowed-host set, 18 bytes. -/
def lineBytes (i : Line) (r : LineRec) (filtered : Level) (allowed : HostSet) : List Byte :=
  [byteOf i.val, r.direction.code, r.drive.code, r.pull.code, levelByte r.level]
    ++ functionBytes r.function
    ++ [flagByte r.faulted r.mismatch false]
    ++ pulseBytes r.function
    ++ [byteOf r.settle]
    ++ holderBytes r.holder
    ++ [flagByte r.raw r.keeper filtered, byteOf allowed.toNat]

/-- R188: the reason codes. -/
def Reason.code : Reason → Byte
  | .timeout => 1
  | .denied => 2
  | .superseded => 3
  | .expired => 4
  | .revoked => 5
  | .declined => 6
  | .targetGone => 7
  | .released => 8
  | .holderGone => 9

/-- R188: filter codes. -/
def Filter.code : Filter → Byte
  | .raw => 0
  | .filtered => 1

/-- R188: the kind code of an event. -/
def Event.code : Event → Byte
  | .edge _ _ _ => 0x01
  | .granted _ _ => 0x02
  | .claimLapsed _ _ => 0x03
  | .leaseLost _ _ => 0x04
  | .offered _ _ _ => 0x05
  | .offerLapsed _ _ => 0x06
  | .offerWithdrawn _ _ => 0x07
  | .transferred _ _ => 0x08
  | .pulseDone _ _ => 0x09
  | .mirrorFault _ _ => 0x0A
  | .mismatch _ _ => 0x0B
  | .overflow _ => 0x0C
  | .cleared _ => 0x0D

/-- R137, R188: fields 1 to 4 of an event; a field the kind does not use is written as 0. -/
def Event.fields : Event → List Byte
  | .edge line level filter => [byteOf line.val, levelByte level, filter.code, 0]
  | .granted ticket lease => [byteOf ticket, byteOf lease, 0, 0]
  | .claimLapsed ticket reason => [byteOf ticket, reason.code, 0, 0]
  | .leaseLost lease reason => [byteOf lease, reason.code, 0, 0]
  | .offered lease holder lines => [byteOf lease, byteOf holder.val, byteOf lines, 0]
  | .offerLapsed lease reason => [byteOf lease, reason.code, 0, 0]
  | .offerWithdrawn lease reason => [byteOf lease, reason.code, 0, 0]
  | .transferred lease holder => [byteOf lease, byteOf holder.val, 0, 0]
  | .pulseDone line lease => [byteOf line.val, byteOf lease, 0, 0]
  | .mirrorFault line source => [byteOf line.val, byteOf source.val, 0, 0]
  | .mismatch line driven => [byteOf line.val, levelByte driven, 0, 0]
  | .overflow lost => [byteOf lost, 0, 0, 0]
  | .cleared supervisor => [byteOf supervisor.val, 0, 0, 0]

/-- R188: an event record in 8 bytes. -/
def recordBytes (r : EventRecord) : List Byte :=
  [r.event.code, r.seq] ++ bytes16 r.time.toNat ++ r.event.fields

/-- R178: the answer of IDENTIFY at port `p`. -/
def identifyBytes (p : Host) (isSupervisor : Bool) : List Byte :=
  [0x5A, 0x24, 0x01, byteOf p.val, levelByte isSupervisor, byteOf leaseEntries, byteOf waitPlaces, byteOf queueRecords]

/-- R156: the address byte of the part, with direction bit 0 for a write and 1 for a read. -/
def addressOf (busAddress : BitVec 7) (read : Bool) : Byte := busAddress ++ (if read then 1#1 else 0#1)

/-- R171: the bytes of the response frame before its CRC. -/
def slotBytes : Slot → List Byte
  | .empty => [emptyCode, 0, 0, 0]
  | .pending tag cmd => [pendingCode, tag, cmd.code, 0]
  | .ready status tag code data => [status.code, tag, code, byteOf data.length] ++ data

/-- R171, R174: the transmit image latched from the slot at a read address byte. -/
def imageBytes (readAddress : Byte) (slot : Slot) : List Byte :=
  slotBytes slot ++ [crcOf (readAddress :: slotBytes slot)]

end Sys2Proof.Machine
end

