-- ==== Sys2Proof/Machine/Ops.lean ====
section
/-! DEFINITION. The operations the commands share, each written once from the rule that owns it: event records, line
writes, the mirror function, parking, the drive test, grants, lease ends, the scan, offers, teardown, and the results that
owners place. -/

namespace Sys2Proof.Machine

/-! ### Event queues (spec 08) -/

/-- R140, R141: an event arrives at a queue: inserted with a seq and a timestamp, or dropped and counted. -/
def EventQueue.arrive (now : Timestamp) (e : Event) (q : EventQueue) : EventQueue :=
  if q.records.length < queueRecords then
    EventQueue.attend { q with records := q.records ++ [⟨e, q.counter, now⟩], counter := q.counter + 1 }
  else { q with lost := min 255 (q.lost + 1) }

/-- R137, R140: an event record raised for host `h`. -/
def State.raise (h : Host) (e : Event) (s : State) : State :=
  s.updateQueue h (EventQueue.arrive s.timestamp e)

/-- R103: a record for the holder host of a line, as bound when the record is raised. -/
def State.raiseHolder (b : Option Binding) (e : Event) (s : State) : State :=
  match b with
  | some b => s.raise b.host e
  | none   => s

/-! ### Arrivals and reports in flight (R66, R128) -/

/-- A level change handed on by the event under way: it joins that event's list, which is the last. -/
def handOn (c : LevelChange) : List (List LevelChange) → List (List LevelChange)
  | [] => [[c]]
  | [batch] => [batch ++ [c]]
  | batch :: rest => batch :: handOn c rest

/-- A list in which the last entry, if it is empty, is left out. -/
def dropEmptyLast : List (List LevelChange) → List (List LevelChange)
  | [] => []
  | [[]] => []
  | batch :: rest => batch :: dropEmptyLast rest

/-- One event that may hand on level changes: its changes stand in one list of their own, in the order of its steps
(R66, R128). -/
def State.asOneEvent (f : State → State) (s : State) : State :=
  let t := f { s with arrivals := s.arrivals ++ [[]], reports := s.reports ++ [[]] }
  { t with arrivals := dropEmptyLast t.arrivals, reports := dropEmptyLast t.reports }

/-- The oldest change of line `i`, and what is left when it is taken. The changes of one line are taken in order, and the
changes of one event in order (R66, R128); there is none to take while another change of the same event stands before
it. -/
def takeChange (i : Line) : List (List LevelChange) → Option (Level × List (List LevelChange))
  | [] => none
  | [] :: rest => (takeChange i rest).map fun r => (r.1, [] :: r.2)
  | (c :: batch) :: rest =>
    if c.line = i then some (c.level, if batch.isEmpty then rest else batch :: rest)
    else if batch.any (fun d => d.line == i) then none
    else (takeChange i rest).map fun r => (r.1, (c :: batch) :: r.2)

/-! ### Lines (spec 04, 05) -/

/-- R66: the record of line `i` becomes `r` and its raw level is recomputed. A raw level that moves takes the keeper
with it and is handed to the input monitor. The level compared with is the one the event's earlier steps left: a line that
two steps of one event move, as a mirror faulted and then parked in one teardown, is handed on twice (log entry 22). -/
def State.writeLine (i : Line) (r : LineRec) (s : State) : State :=
  let v := rawLevel s.external[i] r
  if v = r.raw then s.setLine i r
  else { s.setLine i { r with raw := v, keeper := v } with arrivals := handOn ⟨i, v⟩ s.arrivals }

/-- A record of line `i` written where the driven value may change: the settle and the mismatch follow R63, then the
raw level R66. -/
def State.driveLine (i : Line) (r : LineRec) (s : State) : State :=
  s.writeLine i (LineRec.settled (s.line i) r)

/-- R91: mirror `m`, if it is an unfaulted mirror of `source`, faults and tells its holder. -/
def State.faultMirror (source m : Line) (s : State) : State :=
  match (s.line m).function with
  | .mirror src invert false =>
    if src = source then
      (s.driveLine m { s.line m with function := .mirror src invert true }).raiseHolder
        (s.line m).holder (.mirrorFault m source)
    else s
  | .mirror _ _ true | .plain | .pulse _ _ _ => s

/-- R88, R91: the settings of line `source` presented to its unfaulted mirrors, in ascending line order. -/
def State.present (source : Line) (s : State) : State :=
  match (s.line source).direction with
  | .input  => s
  | .output => allLines.foldl (fun t m => t.faultMirror source m) s

/-- R90, step 1: mirror `m`, if it is an unfaulted mirror of `source`, follows the new filtered level. -/
def State.followMirror (source : Line) (v : Level) (m : Line) (s : State) : State :=
  match (s.line m).function with
  | .mirror src invert false => if src = source then s.driveLine m { s.line m with level := xor v invert } else s
  | .mirror _ _ true | .plain | .pulse _ _ _ => s

/-- R100: the drive test of line `i` against filtered level `v`. -/
def State.driveTest (i : Line) (v : Level) (s : State) : State :=
  match (s.line i).contested v with
  | some d => (s.setLine i { s.line i with mismatch := true }).raiseHolder (s.line i).holder (.mismatch i d)
  | none   => s

/-- R80: the fallback's settings. -/
def Fallback.apply (f : Fallback) (r : LineRec) : LineRec :=
  match f with
  | .float => { r with direction := .input }
  | .hold  => r
  | .low   => { r with direction := .output, drive := if r.drive = .hiz then .pushPull else r.drive, level := false }
  | .high  => { r with direction := .output, drive := if r.drive = .hiz then .pushPull else r.drive, level := true }

/-- R81, steps 1 to 3: a pulse or a mirror ends, and the output level is what the fallback finds. -/
def LineRec.unfunctioned (r : LineRec) : LineRec :=
  { r with
    level := match r.function with
      | .pulse _ revert _ => revert
      | .mirror _ _ true  => false
      | .mirror _ _ false => r.level
      | .plain            => r.level
    function := .plain }

/-- R81, steps 1 to 6: the record of a parked line. Of a line with a running pulse the settle follows step 6 alone: R98 calls
the line state the same whether a due completion or the parking comes first, which holds of the settings and not of the
settle (log entry 26). -/
def LineRec.parked (f : Fallback) (r : LineRec) : LineRec :=
  { LineRec.settled r (f.apply r.unfunctioned) with holder := none, mismatch := false }

/-- R81: one line parked. Step 7 finds the keeper as the pulse, or a completion before the parking, left it, so that raw and
keeper level may depend on their order too (R98, log entry 26). -/
def State.parkLine (e : LineEntry) (s : State) : State :=
  s.writeLine e.line ((s.line e.line).parked e.fallback)

/-- R82: the lines of an ending lease parked in ascending order, then presented to the mirror function. -/
def State.parkLines (entries : List LineEntry) (s : State) : State :=
  entries.foldl (fun t e => t.present e.line) (entries.foldl (fun t e => t.parkLine e) s)

/-- R68: one line bound to a lease. -/
def State.bindLine (b : Binding) (i : Line) (s : State) : State := s.setLine i { s.line i with holder := some b }

/-- R68: binding at a grant: every line of the set bound to the lease and its holder. -/
def State.bindLines (entries : List LineEntry) (b : Binding) (s : State) : State :=
  entries.foldl (fun t e => t.bindLine b e.line) s

/-- R69: the holder host of one line becomes `h`; the holder lease id stays as it was. -/
def State.rebindLine (h : Host) (i : Line) (s : State) : State :=
  s.setLine i { s.line i with holder := (s.line i).holder.map fun b => { b with host := h } }

/-- R69: rebinding at an acceptance. -/
def State.rebindLines (entries : List LineEntry) (h : Host) (s : State) : State :=
  entries.foldl (fun t e => t.rebindLine h e.line) s

/-! ### Numbers, grants and the scan (spec 01, 02) -/

/-- R4, R31: the number after `n`, with 255 followed by 1. -/
def nextNumber (n : Nat) : Nat := if n < 255 then n + 1 else 1

/-- R4, R31: the first number from the candidate on that is not in use, looking at `fuel` numbers. -/
def assignNumber (used : List Nat) : Nat → Nat → Nat
  | 0, candidate => candidate
  | fuel + 1, candidate =>
    if used.contains candidate then assignNumber used fuel (nextNumber candidate) else candidate

/-- The lease id a grant takes next (R4). -/
def State.nextLeaseId (s : State) : Nat := assignNumber (s.leases.map fun l => l.id) leaseEntries s.leaseCounter

/-- The ticket a placement takes next (R31). -/
def State.nextTicket (s : State) : Nat := assignNumber (s.queue.map fun c => c.ticket) waitPlaces s.ticketCounter

/-- R1: a lease put into the table, which stands in ascending order of lease id. -/
def insertLease (l : Lease) : List Lease → List Lease
  | [] => [l]
  | m :: rest => if l.id < m.id then l :: m :: rest else m :: insertLease l rest

/-- R14, R20: the renew remaining a start or restart of the renew timer gives; none for an interval of 0. -/
def renewStart (interval : Nat) : Option Nat := if interval = 0 then none else some (interval * unitMs)

/-- R14, steps 1 to 5: a lease granted to host `h`. -/
def State.grant (h : Host) (entries : List LineEntry) (interval : Nat) (s : State) : State :=
  let id := s.nextLeaseId
  let t := s.bindLines entries ⟨id, h⟩
  { t with
    leases := insertLease ⟨id, h, entries, interval, renewStart interval, none⟩ s.leases
    leaseCounter := nextNumber id }

/-- R13, R34: every line of the entries is free. -/
def State.allFree (s : State) (entries : List LineEntry) : Bool := entries.all fun e => !s.lineHeld e.line

/-- R13, R34: no line of the entries belongs to one of these waiting claims. -/
def unclaimed (claims : List Claim) (entries : List LineEntry) : Bool :=
  claims.all fun c => !sharesLine entries c.entries

/-- R13, R34: the lease table has a free entry. -/
def State.hasEntry (s : State) : Bool := decide (s.leases.length < leaseEntries)

/-- R34: the three conditions under which the scan grants claim `c`, with `older` the older claims still waiting. -/
def State.scanGrants (s : State) (older : List Claim) (c : Claim) : Bool :=
  s.allFree c.entries && unclaimed older c.entries && s.hasEntry

/-- R35: the scan grants claim `c`; GRANTED carries its ticket and the new lease id. (The pass itself takes the claim
out of the queue.) -/
def State.scanGrant (c : Claim) (s : State) : State :=
  (s.grant c.host c.entries c.interval).raise c.host (.granted c.ticket s.nextLeaseId)

/-- R34: the pass over the claims not tested yet; `older` are the claims it has left in the queue. -/
def State.scanFrom (older : List Claim) : List Claim → State → State
  | [], s => { s with queue := older }
  | c :: rest, s =>
    if s.scanGrants older c then State.scanFrom older rest (s.scanGrant c)
    else State.scanFrom (older ++ [c]) rest s

/-- R34: the scan, one pass over the wait queue from the head to the tail. -/
def State.scan (s : State) : State := State.scanFrom [] s.queue s

/-- R37, R44: the waiting claims that satisfy `p` leave the queue, in queue order, each with CLAIM_LAPSED to its host
where a reason is given. -/
def State.removeClaims (p : Claim → Bool) (reason : Option Reason) (s : State) : State :=
  let t := { s with queue := s.queue.filter fun c => !p c }
  match reason with
  | some r => (s.queue.filter p).foldl (fun u c => u.raise c.host (.claimLapsed c.ticket r)) t
  | none   => t

/-- R33: the scan runs if the removal of the claims that satisfied `p` removed at least one. -/
def State.scanIf (removed : Bool) (s : State) : State := if removed then s.scan else s

/-! ### Leases: updates, offers and ends (spec 01, 03) -/

/-- The lease with the id changed by `f`. -/
def State.updateLease (id : Nat) (f : Lease → Lease) (s : State) : State :=
  { s with leases := s.leases.map fun l => if l.id = id then f l else l }

/-- R3: the offer fields removed: the lease is ACTIVE. -/
def Lease.activated (l : Lease) : Lease := { l with offer := none }

/-- R21: the renew timer restarted. A lease with interval 0 has none. -/
def Lease.renewed (l : Lease) : Lease := { l with remaining := renewStart l.interval }

/-- The causes of a lease end (R18). -/
inductive EndCause where
  | release | expiry | revoke | teardown
  deriving DecidableEq, Repr

/-- R18: the reason of the LEASE_LOST record to the holder, where the cause sends one. -/
def EndCause.holderReason : EndCause → Option Reason
  | .release  => none
  | .expiry   => some .expired
  | .revoke   => some .revoked
  | .teardown => none

/-- R18: the reason of the OFFER_WITHDRAWN record to the target. -/
def EndCause.targetReason : EndCause → Reason
  | .release  => .released
  | .expiry   => .expired
  | .revoke   => .revoked
  | .teardown => .holderGone

/-- R17, step 1: the offer of an OFFERED lease is withdrawn. -/
def State.withdrawOffer (l : Lease) (cause : EndCause) (s : State) : State :=
  match l.offer with
  | some o => s.raise o.target (.offerWithdrawn l.id cause.targetReason)
  | none   => s

/-- R17, step 2: the holder receives LEASE_LOST where the cause sends it. -/
def State.noticeLoss (l : Lease) (cause : EndCause) (s : State) : State :=
  match cause.holderReason with
  | some r => s.raise l.holder (.leaseLost l.id r)
  | none   => s

/-- R17, steps 3 and 5: the entry becomes free; its timers go with it. -/
def State.freeEntry (id : Nat) (s : State) : State := { s with leases := s.leases.filter fun l => l.id != id }

/-- R17, steps 1 to 5: live lease `l` ends. -/
def State.endLease (l : Lease) (cause : EndCause) (s : State) : State :=
  (((s.withdrawOffer l cause).noticeLoss l cause).parkLines l.entries).freeEntry l.id

/-- R17: the lease-end procedure with the scan that closes it (R19). -/
def State.endLeaseAndScan (l : Lease) (cause : EndCause) (s : State) : State := (s.endLease l cause).scan

/-- R51, steps 1 to 5: lease `l` passes to host `h`. -/
def State.transfer (l : Lease) (h : Host) (s : State) : State :=
  ((s.updateLease l.id fun m => { m.activated.renewed with holder := h }).rebindLines l.entries h).raise
    l.holder (.transferred l.id h)

/-- R42: the waiting claims of host `h` that share a line with the line set. -/
def supersededBy (h : Host) (entries : List LineEntry) (c : Claim) : Bool :=
  c.host == h && sharesLine c.entries entries

/-! ### Teardown (spec 06) -/

/-- R56: lease `l`, if it is offered to host `n`, ends its offer by the target-gone ending. -/
def State.endOfferTo (n : Host) (l : Lease) (s : State) : State :=
  match l.offer with
  | some o =>
    if o.target = n then (s.updateLease l.id Lease.activated).raise l.holder (.offerLapsed l.id .targetGone) else s
  | none => s

/-- R151: EQn emptied; for CLEAR_HOST a CLEARED record that names the supervisor is inserted. -/
def EventQueue.clear (now : Timestamp) (supervisor : Option Host) : EventQueue :=
  match supervisor with
  | some h => EventQueue.arrive now (.cleared h) EventQueue.reset
  | none   => EventQueue.reset

/-- R114, step 4: every subscription of host `n` removed. -/
def State.unsubscribeAll (n : Host) (s : State) : State :=
  { s with subs := updateHost s.subs n fun _ => Vector.replicate 24 none }

/-- R114, steps 1 to 6: the teardown of host `n`; `supervisor` is the caller of a CLEAR_HOST. -/
def State.teardown (n : Host) (supervisor : Option Host) (s : State) : State :=
  let s1 := s.removeClaims (fun c => c.host == n) none
  let s2 := s1.leases.foldl (fun t l => t.endOfferTo n l) s1
  let s3 := (s2.leasesOf n).foldl (fun t l => t.endLease l .teardown) s2
  let s4 := s3.unsubscribeAll n
  let s5 := s4.updateQueue n fun _ => EventQueue.clear s4.timestamp supervisor
  s5.scan

/-! ### Owners and results (spec 09) -/

/-- What an owner places in a slot: a status and its data (R169). -/
structure Reply where
  status : Status
  data   : List Byte
  deriving DecidableEq, Repr

/-- OK with no data. -/
def Reply.ok : Reply := ⟨.ok, []⟩

/-- R10, R72: a refusal carries its status and no data. -/
def Reply.refuse (st : Status) : Reply := ⟨st, []⟩

/-- R169: an owner's result: the slot becomes READY with the tag and command it held as PENDING, and the repeat guard is
set to the accepted frame. -/
def PortState.placeResult (tag : Byte) (cmd : Cmd) (r : Reply) (q : PortState) : PortState :=
  { q with
    slot := .ready r.status tag cmd.code r.data
    repeatGuard := some ⟨tag, cmd.code, frameCrc q.buffer⟩
    ticked := false }

/-- The parameters of the frame a port's receive buffer holds (R168). -/
def PortState.params (q : PortState) : List Byte := frameParams q.buffer

/-- R168: port `p` waits for its owner with command `cmd`, and the parameters satisfy `applies`. -/
def State.waitsWith (s : State) (p : Host) (cmd : Cmd) (applies : List Byte → Bool) : Option Byte :=
  match (s.port p).slot with
  | .pending tag c => if c = cmd && applies (s.port p).params then some tag else none
  | .empty | .ready _ _ _ _ => none

/-- R168, R169: the owner takes command `cmd` of port `p` whole, as one event: it judges the parameters, makes the
effects and places the result. While no such command waits, nothing is taken. -/
def State.ownerTakes (p : Host) (cmd : Cmd) (applies : List Byte → Bool)
    (body : List Byte → State → State × Reply) (s : State) : State :=
  match s.waitsWith p cmd applies with
  | some tag =>
    let r := body (s.port p).params s
    r.1.updatePort p (PortState.placeResult tag cmd r.2)
  | none => s

/-- R168: the port's command waits for this owner. -/
def PortState.waitsFor (o : Owner) (q : PortState) : Bool :=
  match q.slot with
  | .pending _ c => c.owner == o
  | .empty | .ready _ _ _ _ => false

/-- R70, R123: a command waits for this owner that has let one tick pass already: the owner takes no second tick before
it (log entry 24). -/
def State.overdue (o : Owner) (s : State) : Bool := allHosts.any fun p => (s.port p).waitsFor o && (s.port p).ticked

/-- R70, R123: the owner takes a tick, which every command that waits for it lets pass. -/
def State.tickWaits (o : Owner) (s : State) : State :=
  { s with ports := mapTable (fun q => { q with ticked := q.ticked || q.waitsFor o }) s.ports }

/-- R5: port `p` presents a request to the lease controller. -/
def State.presents (s : State) (p : Host) : Bool := (s.port p).waitsFor .leaseController

/-- R6: the port the lease request arbiter serves next: the first that presents a request, after the last-served one. -/
def State.arbiterPick (s : State) : Option Host :=
  [s.lastServed + 1, s.lastServed + 2, s.lastServed + 3, s.lastServed].find? fun p => s.presents p

/-- R6, R7: the lease controller takes command `cmd` of port `p`, which is the port the arbiter serves next. -/
def State.leaseControllerTakes (p : Host) (cmd : Cmd) (body : List Byte → State → State × Reply) (s : State) : State :=
  if s.arbiterPick = some p then
    s.ownerTakes p cmd (fun _ => true) fun ps t => body ps { t with lastServed := p }
  else s

/-- R9: the lease an id names, if the caller holds it. -/
def State.heldLease (s : State) (caller : Host) (id : Nat) : Except Status Lease :=
  match s.findLease id with
  | none   => .error .noLease
  | some l => if l.holder = caller then .ok l else .error .notHolder

/-- R106: the command was taken from the supervisor port. -/
def State.isSupervisor (s : State) (p : Host) : Bool := s.supervisor == some p

/-- R50, R53: the lease an id names, if it is offered to the caller. -/
def State.offeredLease (s : State) (caller : Host) (id : Nat) : Option Lease :=
  match s.findLease id with
  | none   => none
  | some l =>
    match l.offer with
    | some o => if o.target = caller then some l else none
    | none   => none

/-! ### Outcomes -/

/-- An event of the part: while device reset is in force none is taken (R189). -/
def State.takes (f : State → State) (s : State) : Host.Outcome State Fault Refusal :=
  .next (if s.inReset then s else f s)

end Sys2Proof.Machine
end

