-- ==== Sys2Proof/Machine/Bus.lean ====
section
/-! DEFINITION. The host port engines: conditions, address bytes, command frames, response reads, bus errors and bus
timeouts (spec 09). Each event reaches the port engine of its own bus only. -/

namespace Sys2Proof.Machine

/-- R155: the port is in RX or TX. -/
def PortState.inTransaction (q : PortState) : Bool := q.txn == .rx || q.txn == .tx

/-- The transaction under way ends in one of the states of IDLE: SDA is released, the bus timer stops, an ACK, the CRC
register and the transmit image go. The receive buffer is left as it stands. -/
def PortState.idle (next : Txn) (q : PortState) : PortState :=
  { q with txn := next, crc := none, image := none, timer := ⟨0, false⟩, ack := .absent, sda := .released }

/-- R161 to R163, R172, R177: the transaction under way is dropped. A frame in reception is discarded from the receive
buffer; a pending or accepted frame, which is not in reception, stays. -/
def PortState.drop (next : Txn) (q : PortState) : PortState :=
  if q.txn = .rx then { q.idle next with buffer := [] } else q.idle next

/-- R176: the bus timer has run to 0 in RX or TX, with SCL low. -/
def PortState.timedOut (q : PortState) : Bool := q.inTransaction && q.timer.running && q.timer.remaining == 0

/-- R176, R177: a bus timeout that has come is taken: the port engine reset, and the port stands aside until the next start
or stop. Nothing else happens at the port before it (log entry 14). -/
def PortState.takeTimeout (q : PortState) : PortState := if q.timedOut then q.drop .aside else q

/-- An event at port `p`, after a bus timeout that has come there: while device reset is in force the port ignores its bus
(R155). -/
def State.portEvent (p : Host) (f : PortState → PortState) (s : State) : Host.Outcome State Fault Refusal :=
  s.takes fun s => s.updatePort p fun q => f q.takeTimeout

/-- R157, R163, R172: a start or stop condition at a byte boundary. -/
def PortState.condition (c : Condition) (q : PortState) : PortState :=
  match c with
  | .start => { q.drop .addressing with acks := [] }
  | .stop  => q.drop .waiting

/-- START_CONDITION (R157, R163, R172). -/
def execStartCondition (p : Host) (s : State) : Host.Outcome State Fault Refusal := s.portEvent p (PortState.condition .start)

/-- STOP_CONDITION (R157, R163, R172). -/
def execStopCondition (p : Host) (s : State) : Host.Outcome State Fault Refusal := s.portEvent p (PortState.condition .stop)

/-- BUS_ERROR (R175, R177): the byte in progress is abandoned and a frame or image under way is dropped, as at a byte
boundary; the condition then begins a new address byte or leaves the port waiting for a start (log entry 7). -/
def execBusError (p : Host) (c : Condition) (s : State) : Host.Outcome State Fault Refusal :=
  s.portEvent p (PortState.condition c)

/-- BUS_TIMEOUT (R176, R177): a bus timeout that has come, and nothing where none has. -/
def execBusTimeout (p : Host) (s : State) : Host.Outcome State Fault Refusal := s.portEvent p id

/-- R176: the bus timer as a port enters RX or TX, and at a rising edge of SCL with no tick since it fell: 25 ms, stopped. -/
def BusTimer.entry : BusTimer := ⟨busTimeoutMs, false⟩

/-- R159, R171: the answer of an addressed port to its address byte. -/
def PortState.addressed (readDirection : Bool) (b : Byte) (q : PortState) : PortState :=
  if readDirection then
    { q with
      txn := .tx, image := some ⟨imageBytes b q.slot, 0, 0⟩, crc := some (crcOf (b :: slotBytes q.slot))
      timer := BusTimer.entry, ack := .decided, sda := .released, acks := q.acks ++ [true], sent := [] }
  else
    match q.slot with
    | .pending _ _ => { q.idle .aside with acks := q.acks ++ [false] }
    | .empty | .ready _ _ _ _ =>
      { q with
        txn := .rx, buffer := [], crc := some (crcOf [b]), timer := BusTimer.entry, ack := .decided, sda := .released
        acks := q.acks ++ [true] }

/-- R159: a completed address byte is judged; a byte that is no address byte of this port reaches nothing. -/
def PortState.addressByte (busAddress : BitVec 7) (b : Byte) (q : PortState) : PortState :=
  if q.txn = .addressing then
    if b = addressOf busAddress true then q.addressed true b
    else if b = addressOf busAddress false then q.addressed false b
    else q.idle .aside
  else q

/-- ADDRESS_BYTE (R159). -/
def execAddressByte (p : Host) (b : Byte) (s : State) : Host.Outcome State Fault Refusal :=
  s.portEvent p (PortState.addressByte s.busAddress b)

/-- R166: the port answers a frame itself: the slot becomes READY and the guard is set to the frame. -/
def PortState.answer (tag code crc : Byte) (st : Status) (data : List Byte) (q : PortState) : PortState :=
  { q with slot := .ready st tag code data, repeatGuard := some ⟨tag, code, crc⟩ }

/-- R166, step 1: the slot is READY and the frame's tag, command and CRC equal the repeat guard. -/
def PortState.isRepeat (tag code crc : Byte) (q : PortState) : Bool :=
  match q.slot with
  | .ready _ _ _ _ => q.repeatGuard == some ⟨tag, code, crc⟩
  | .empty | .pending _ _ => false

/-- R166: the accept of the frame in the receive buffer, at port `p`, which is the supervisor port or not. -/
def PortState.accept (p : Host) (isSupervisor : Bool) (q : PortState) : PortState :=
  let code := q.buffer.getD 0 0
  let tag := q.buffer.getD 1 0
  let crc := frameCrc q.buffer
  if q.isRepeat tag code crc then q
  else
    match cmdOf code with
    | none => q.answer tag code crc .badCommand []
    | some cmd =>
      if !cmd.lengthOk q.params then q.answer tag code crc .badLength []
      else if cmd = .identify then q.answer tag code crc .ok (identifyBytes p isSupervisor)
      else { q with slot := .pending tag cmd, repeatGuard := none, ticked := false }

/-- A byte stored in the receive buffer, added to the CRC register and acknowledged (R160), as its eighth bit is taken. -/
def PortState.store (b : Byte) (q : PortState) : PortState :=
  { q with
    buffer := q.buffer ++ [b], crc := q.crc.map fun r => crcByte r b, timer := BusTimer.entry, ack := .decided
    sda := .released, acks := q.acks ++ [true] }

/-- R161, R162: the frame is discarded with NACK. -/
def PortState.reject (q : PortState) : PortState := { q.drop .aside with acks := q.acks ++ [false] }

/-- R162: the CRC byte is complete. -/
def PortState.crcReceived (p : Host) (isSupervisor : Bool) (b : Byte) (q : PortState) : PortState :=
  if q.crc = some b then
    PortState.accept p isSupervisor
      { q.idle .aside with buffer := q.buffer ++ [b], ack := .decided, acks := q.acks ++ [true] }
  else q.reject

/-- R159 to R162: a byte the host sends to a port in RX; a port that stands aside does not acknowledge it. -/
def PortState.rxByte (p : Host) (isSupervisor : Bool) (q : PortState) (b : Byte) : PortState :=
  if q.txn = .rx then
    if q.buffer.length < 2 then q.store b
    else if q.buffer.length = 2 then (if b.toNat ≤ 32 then q.store b else q.reject)
    else if q.buffer.length < 3 + (q.buffer.getD 2 0).toNat then q.store b
    else q.crcReceived p isSupervisor b
  else { q with ack := .absent, sda := .released, acks := q.acks ++ [false] }

/-- R158, R172: SDA for bit `k` of a byte the port sends, the most significant bit first: low for a 0 bit and released for
a 1 bit. After the eighth bit it is released, for the host's answer on the ninth clock. -/
def sentBit (b : Byte) (k : Nat) : Sda := if k < 8 && !b.getMsbD k then .low else .released

/-- R172: the byte of the image at its position, and the filler 0xFF after the CRC byte. -/
def Image.current (im : Image) : Byte := im.bytes.getD im.position 0xFF

/-- R158: SDA for the bit that the port sends next. -/
def Image.sda (im : Image) : Sda := sentBit im.current im.bit

/-- R158: a bit of the current byte is taken, at a rising edge of SCL. -/
def Image.clockBit (im : Image) : Image := { im with bit := im.bit + 1 }

/-- R158, R176: SCL stands low, as far as the port follows it: between the eighth bit of a byte it acknowledges and the ninth
clock, and in RX and TX while the bus timer runs. -/
def PortState.sclLow (q : PortState) : Bool :=
  match q.ack with
  | .decided | .clocked => false
  | .driven => true
  | .absent => q.inTransaction && q.timer.running

/-- R158: SDA from a falling edge on, with no ACK to drive: the next bit of a byte the port sends, and else released. -/
def PortState.fallenSda (q : PortState) : Sda :=
  match q.txn, q.image with
  | .tx, some im => im.sda
  | _, _ => .released

/-- R158, R176: a falling edge of SCL. In RX and TX the bus timer is set and runs. An ACK is driven from the one after the
byte's eighth bit, and ends at the one after the ninth clock (log entry 13). -/
def PortState.fall (q : PortState) : PortState :=
  let timer := if q.inTransaction then ⟨busTimeoutMs, true⟩ else q.timer
  match q.ack with
  | .decided => { q with timer := timer, ack := .driven, sda := .low }
  | .absent | .driven | .clocked => { q with timer := timer, ack := .absent, sda := q.fallenSda }

/-- R158, R176: a rising edge of SCL: the bus timer stops, and the ninth clock takes an ACK or a data bit is taken. SDA
stands. -/
def PortState.rise (q : PortState) : PortState :=
  let timer := if q.inTransaction then { q.timer with running := false } else q.timer
  match q.ack with
  | .driven => { q with timer := timer, ack := .clocked }
  | .absent | .decided | .clocked =>
    { q with timer := timer, image := if q.txn = .tx then q.image.map Image.clockBit else q.image }

/-- R172: a port in TX has sent a whole byte, so that the next rising edge brings the host's answer. -/
def PortState.awaitsAnswer (q : PortState) : Bool :=
  q.txn == .tx && q.ack == .absent && q.image.any fun im => 8 ≤ im.bit

/-- R158, R176: the edge that leaves SCL at `scl`, with no byte and no answer of the host: a falling edge, before which SCL
rises where it is low; or a rising edge where SCL is low. The rising edge that brings the host's answer to a sent byte comes
with it, and is not taken here (log entry 13). -/
def PortState.edge (scl : Scl) (q : PortState) : PortState :=
  if q.sclLow then
    if q.awaitsAnswer then q
    else
      match scl with
      | .high => q.rise
      | .low  => q.rise.fall
  else
    match scl with
    | .high => q
    | .low  => q.fall

/-- R176: after the rising edge of its last clock an event may leave SCL low. -/
def PortState.leave (scl : Scl) (q : PortState) : PortState :=
  match scl with
  | .high => q
  | .low  => q.fall

/-- R159 to R162: bytes of the host at a port in RX or standing aside, or an edge of SCL. -/
def PortState.receive (p : Host) (isSupervisor : Bool) (bytes : List Byte) (scl : Scl) (q : PortState) : PortState :=
  if bytes.isEmpty then q.edge scl else (bytes.foldl (PortState.rxByte p isSupervisor) q).leave scl

/-- R158 to R162: bytes of the host reach a port in RX, or one that stands aside, one after another. -/
def PortState.commandFrame (p : Host) (isSupervisor : Bool) (bytes : List Byte) (scl : Scl) (q : PortState) : PortState :=
  if q.txn = .rx ∨ q.txn = .aside then q.receive p isSupervisor bytes scl else q

/-- COMMAND_FRAME (R158 to R162, R166). -/
def execCommandFrame (p : Host) (bytes : List Byte) (scl : Scl) (s : State) : Host.Outcome State Fault Refusal :=
  s.portEvent p (PortState.commandFrame p (s.isSupervisor p) bytes scl)

/-- R172: the image after its current byte was sent and acknowledged. -/
def Image.advance (im : Image) : Image := { im with position := min (im.position + 1) im.bytes.length, bit := 0 }

/-- R176: the bus timer at the rising edge of the ninth clock of a sent byte. Where SCL was low after the eighth bit no
falling edge comes before it; else one does. -/
def PortState.answerTimer (im : Image) (q : PortState) : BusTimer :=
  if q.sclLow && im.bit == 8 then { q.timer with running := false } else BusTimer.entry

/-- R172: a port in TX sends one byte, releases SDA for the ninth clock and acts on the host's answer. -/
def PortState.txByte (q : PortState) (ack : Bool) : PortState :=
  match q.txn, q.image with
  | .tx, some im =>
    if ack then
      { q with
        image := some im.advance, timer := q.answerTimer im, ack := .absent, sda := .released
        sent := q.sent ++ [im.current] }
    else { q.idle .aside with sent := q.sent ++ [im.current] }
  | _, _ => q

/-- R158, R172: a port in TX: the rest of the byte in progress and the bytes after it, each with the host's answer, or an
edge of SCL. -/
def PortState.transmit (answers : List Bool) (scl : Scl) (q : PortState) : PortState :=
  if answers.isEmpty then q.edge scl else (answers.foldl PortState.txByte q).leave scl

/-- R159: a port that stands aside sends nothing: bytes of another pass with SDA released. -/
def PortState.passBytes (answers : List Bool) (scl : Scl) (q : PortState) : PortState :=
  if answers.isEmpty then q.edge scl else { q with ack := .absent, sda := .released }

/-- R159, R172: a response read at a port in TX, or at one that stands aside. -/
def PortState.responseRead (answers : List Bool) (scl : Scl) (q : PortState) : PortState :=
  match q.txn with
  | .tx => q.transmit answers scl
  | .aside => q.passBytes answers scl
  | .waiting | .addressing | .rx => q

/-- RESPONSE_READ (R158, R159, R172): the image bytes in order, bit by bit, then filler, until NACK. -/
def execResponseRead (p : Host) (answers : List Bool) (scl : Scl) (s : State) : Host.Outcome State Fault Refusal :=
  s.portEvent p (PortState.responseRead answers scl)

end Sys2Proof.Machine
end

