-- ==== Sys2Proof/Machine/Events.lean ====
section
/-! DEFINITION. POLL and ATTENTION, the commands of the event queues (spec 08). -/

namespace Sys2Proof.Machine

/-- R143: the seq is that of a record in the queue. -/
def EventQueue.holds (q : EventQueue) (seq : Byte) : Bool := q.records.any fun r => r.seq == seq

/-- R143: the ack seq is judged: it is in the window, or it is the last acknowledged seq. -/
def EventQueue.acceptsAck (q : EventQueue) (seq : Byte) : Bool := q.holds seq || seq == q.lastAck

/-- R144, step 1: the records after the one with the seq, where the queue holds it. -/
def afterSeq (seq : Byte) : List EventRecord → List EventRecord
  | [] => []
  | r :: rest => if r.seq = seq then rest else afterSeq seq rest

/-- R144, R145, steps 1 to 3: an acknowledgement that removes records, and the OVERFLOW record it may insert. -/
def EventQueue.acknowledge (now : Timestamp) (seq : Byte) (q : EventQueue) : EventQueue :=
  if q.holds seq then
    let t := { q with records := afterSeq seq q.records, lastAck := seq }
    if q.lost = 0 then t.attend else { EventQueue.arrive now (.overflow q.lost) t with lost := 0 }
  else q

/-- R146: the first records of the queue, at most `maximum`, 8 bytes each. -/
def EventQueue.firstRecords (q : EventQueue) (maximum : Nat) : List Byte := (q.records.take maximum).flatMap recordBytes

/-- R143, R144: POLL at the caller's queue: the queue after it and the reply. -/
def EventQueue.poll (now : Timestamp) (ps : List Byte) (q : EventQueue) : EventQueue × Reply :=
  match bitOf (param ps 0).toNat with
  | none => (q, Reply.refuse .badParam)
  | some ack =>
    if (param ps 2).toNat = 0 ∨ 7 < (param ps 2).toNat then (q, Reply.refuse .badParam)
    else if ack && !q.acceptsAck (param ps 1) then (q, Reply.refuse .badSeq)
    else
      let t := if ack then q.acknowledge now (param ps 1) else q
      (t, ⟨.ok, t.firstRecords (param ps 2).toNat⟩)

/-- R143, R144: POLL by the caller. -/
def State.pollBody (caller : Host) (ps : List Byte) (s : State) : State × Reply :=
  let r := (s.eventQueue caller).poll s.timestamp ps
  (s.updateQueue caller fun _ => r.1, r.2)

/-- POLL (R143, R144). -/
def execPoll (p : Host) (s : State) : Host.Outcome State Fault Refusal :=
  s.takes (State.ownerTakes p .poll (fun _ => true) (State.pollBody p))

/-- R150: ATTENTION by the caller. -/
def State.attentionBody (caller : Host) (ps : List Byte) (s : State) : State × Reply :=
  match bitOf (param ps 0).toNat with
  | none    => (s, Reply.refuse .badParam)
  | some on => (s.updateQueue caller fun q => EventQueue.attend { q with enable := on }, Reply.ok)

/-- ATTENTION (R150). -/
def execAttention (p : Host) (s : State) : Host.Outcome State Fault Refusal :=
  s.takes (State.ownerTakes p .attention (fun _ => true) (State.attentionBody p))

end Sys2Proof.Machine
end

