-- ==== Sys2Proof/Machine/Leases.lean ====
section
/-! DEFINITION. The commands on leases and waiting claims: CLAIM, CANCEL_CLAIM, RELEASE, RENEW, RENEW_ALL and QUERY_LEASE
(spec 01, 02). -/

namespace Sys2Proof.Machine

/-- R12: some line of the entries belongs to a lease held by the caller or to a waiting claim of the caller. -/
def State.ownsLine (s : State) (caller : Host) (entries : List LineEntry) : Bool :=
  (s.leases.any fun l => l.holder == caller && sharesLine entries l.entries)
    || (s.queue.any fun c => c.host == caller && sharesLine entries c.entries)

/-- R13: the wait queue has no room for another claim of the caller. -/
def State.queueFullFor (s : State) (caller : Host) : Bool :=
  decide (waitPlaces ≤ s.queue.length)
    || decide (claimsPerHost ≤ (s.queue.filter fun c => c.host == caller).length)

/-- The outcome of a claim's admission (R11 to R13). -/
inductive Admission where
  | granted
  | queued
  | refused (status : Status)
  deriving DecidableEq, Repr

/-- R12, R13: the admission of a claim whose form is right. -/
def State.admission (s : State) (caller : Host) (entries : List LineEntry) (waitLimit : Nat) : Admission :=
  if !s.allowsAll caller entries then .refused .denied
  else if s.ownsLine caller entries then .refused .ownLine
  else if s.allFree entries && unclaimed s.queue entries && s.hasEntry then .granted
  else if waitLimit = 0 then
    if s.allFree entries && unclaimed s.queue entries then .refused .tableFull else .refused .held
  else if s.queueFullFor caller then .refused .queueFull
  else .queued

/-- R15, R31: a claim placed at the tail of the wait queue. -/
def State.place (caller : Host) (entries : List LineEntry) (interval waitLimit : Nat) (s : State) : State :=
  { s with
    queue := s.queue ++ [⟨s.nextTicket, caller, entries, interval, waitLimit * unitMs⟩]
    ticketCounter := nextNumber s.nextTicket }

/-- R11 to R15: a CLAIM of the caller, taken by the lease controller. -/
def State.claimBody (caller : Host) (ps : List Byte) (s : State) : State × Reply :=
  match claimEntries (ps.drop 3) with
  | none => (s, Reply.refuse .badParam)
  | some entries =>
    match s.admission caller entries (param ps 1).toNat with
    | .granted => (s.grant caller entries (param ps 0).toNat, ⟨.ok, [byteOf s.nextLeaseId]⟩)
    | .queued =>
      (s.place caller entries (param ps 0).toNat (param ps 1).toNat, ⟨.queued, [byteOf s.nextTicket]⟩)
    | .refused st => (s, Reply.refuse st)

/-- CLAIM (R11 to R15). -/
def execClaim (p : Host) (s : State) : Host.Outcome State Fault Refusal :=
  s.takes (State.leaseControllerTakes p .claim (State.claimBody p))

/-- R41: CANCEL_CLAIM of the caller. -/
def State.cancelBody (caller : Host) (ps : List Byte) (s : State) : State × Reply :=
  match s.findClaim (param ps 0).toNat with
  | none => (s, Reply.refuse .noClaim)
  | some c =>
    if c.host = caller then ((s.removeClaims (fun d => d.ticket == c.ticket) none).scan, Reply.ok)
    else (s, Reply.refuse .noClaim)

/-- CANCEL_CLAIM (R41). -/
def execCancelClaim (p : Host) (s : State) : Host.Outcome State Fault Refusal :=
  s.takes (State.leaseControllerTakes p .cancelClaim (State.cancelBody p))

/-- R16: RELEASE by the caller. -/
def State.releaseBody (caller : Host) (ps : List Byte) (s : State) : State × Reply :=
  match s.heldLease caller (param ps 0).toNat with
  | .error st => (s, Reply.refuse st)
  | .ok l     => (s.endLeaseAndScan l .release, Reply.ok)

/-- RELEASE (R16). -/
def execRelease (p : Host) (s : State) : Host.Outcome State Fault Refusal :=
  s.takes (State.asOneEvent (State.leaseControllerTakes p .release (State.releaseBody p)))

/-- R21: RENEW by the caller. -/
def State.renewBody (caller : Host) (ps : List Byte) (s : State) : State × Reply :=
  match s.heldLease caller (param ps 0).toNat with
  | .error st => (s, Reply.refuse st)
  | .ok l     => (s.updateLease l.id Lease.renewed, Reply.ok)

/-- RENEW (R21). -/
def execRenew (p : Host) (s : State) : Host.Outcome State Fault Refusal :=
  s.takes (State.leaseControllerTakes p .renew (State.renewBody p))

/-- R22: RENEW_ALL by the caller. -/
def State.renewAllBody (caller : Host) (_ps : List Byte) (s : State) : State × Reply :=
  ({ s with leases := s.leases.map fun l => if l.holder = caller then l.renewed else l },
    ⟨.ok, [byteOf (s.leasesOf caller).length]⟩)

/-- RENEW_ALL (R22). -/
def execRenewAll (p : Host) (s : State) : Host.Outcome State Fault Refusal :=
  s.takes (State.leaseControllerTakes p .renewAll (State.renewAllBody p))

/-- R25, R26: QUERY_LEASE: one record, or the listing for id 0. -/
def State.queryLeaseBody (ps : List Byte) (s : State) : State × Reply :=
  if param ps 0 = 0 then (s, ⟨.ok, listingBytes s.leases⟩)
  else
    match s.findLease (param ps 0).toNat with
    | some l => (s, ⟨.ok, leaseBytes l⟩)
    | none   => (s, Reply.refuse .noLease)

/-- QUERY_LEASE (R25, R26). -/
def execQueryLease (p : Host) (s : State) : Host.Outcome State Fault Refusal :=
  s.takes (State.leaseControllerTakes p .queryLease State.queryLeaseBody)

end Sys2Proof.Machine
end

