-- ==== Sys2Proof/Machine/Lines.lean ====
section
/-! DEFINITION. The line commands SET_LEVEL, CONFIGURE, PULSE, READ_LINES and QUERY_LINE, the board's changes, and the
reports the line matrix takes (spec 04, 05). -/

namespace Sys2Proof.Machine

/-- A command of the line matrix taken from port `p` as one event (R70). -/
def State.lineMatrixTakes (p : Host) (cmd : Cmd) (applies : List Byte → Bool)
    (body : List Byte → State → State × Reply) (s : State) : Host.Outcome State Fault Refusal :=
  s.takes (State.asOneEvent (State.ownerTakes p cmd applies body))

/-- R71: the line matrix's holder check of a lease id and the named lines: the status that refuses, if one does. -/
def State.holderCheck (s : State) (caller : Host) (lease : Nat) (named : List Line) : Option Status :=
  if lease = 0 ∨ (allLines.all fun i => (s.line i).holder.map (fun b => b.lease) != some lease) then some .noLease
  else if named.all fun i => (s.line i).holder == some ⟨lease, caller⟩ then none
  else some .notHolder

/-- R73: the checks of SET_LEVEL, in order: the status that refuses, if one does. -/
def State.setLevelCheck (s : State) (caller : Host) (lease : Nat) (m : LineMask) : Option Status :=
  if m = 0 then some .badParam
  else
    match s.holderCheck caller lease (maskLines m) with
    | some st => some st
    | none => if (maskLines m).all fun i => (s.line i).function == .plain then none else some .busy

/-- R74: the output level of one named line. -/
def State.writeLevel (levels : LineMask) (s : State) (i : Line) : State :=
  s.driveLine i { s.line i with level := levels.getLsbD i.val }

/-- R73, R74: SET_LEVEL by the caller. -/
def State.setLevelBody (caller : Host) (ps : List Byte) (s : State) : State × Reply :=
  match s.setLevelCheck caller (param ps 0).toNat (paramMask ps 1) with
  | some st => (s, Reply.refuse st)
  | none => ((maskLines (paramMask ps 1)).foldl (State.writeLevel (paramMask ps 4)) s, Reply.ok)

/-- SET_LEVEL (R73, R74). -/
def execSetLevel (p : Host) (s : State) : Host.Outcome State Fault Refusal :=
  s.lineMatrixTakes p .setLevel (fun _ => true) (State.setLevelBody p)

/-- The settings a CONFIGURE carries, once its codes are read (R75, R183): `mirror` is absent for PLAIN. -/
structure LineSettings where
  line      : Line
  direction : Direction
  drive     : Drive
  pull      : Pull
  deriving DecidableEq, Repr

/-- The function code of a CONFIGURE (R183): PLAIN is 0 and MIRROR is 1. -/
def mirrorCode : Byte := 1

/-- R75, check 1: the line and the codes of direction, drive and pull. -/
def lineSettings (ps : List Byte) : Option LineSettings :=
  match lineOf (param ps 1).toNat, directionOf (param ps 2).toNat, driveOf (param ps 3).toNat,
      pullOf (param ps 4).toNat with
  | some i, some d, some v, some u => some ⟨i, d, v, u⟩
  | _, _, _, _ => none

/-- The line is in the middle of a pulse: it has function PULSE (R75, R94). -/
def LineRec.pulsing (r : LineRec) : Bool :=
  match r.function with
  | .pulse _ _ _ => true
  | .plain | .mirror _ _ _ => false

/-- R75, checks 1 to 3: the settings, or the status that refuses. Check 1 also judges the function code: it names PLAIN
or MIRROR. -/
def State.configureCheck (s : State) (caller : Host) (ps : List Byte) : Except Status LineSettings :=
  match lineSettings ps, bitOf (param ps 5).toNat with
  | some x, some _ =>
    match s.holderCheck caller (param ps 0).toNat [x.line] with
    | some st => .error st
    | none => if (s.line x.line).pulsing then .error .busy else .ok x
  | _, _ => .error .badParam

/-- The settings of a CONFIGURE written to a line record with the function given; the mismatch flag is cleared and the
settle restarts (R76, R89). -/
def LineRec.configured (x : LineSettings) (f : LineFunction) (level : Level) (r : LineRec) : LineRec :=
  { r with
    direction := x.direction, drive := x.drive, pull := x.pull, function := f, level := level
    mismatch := false, settle := settleMs }

/-- R76: a CONFIGURE with function PLAIN carried out. -/
def State.configurePlain (x : LineSettings) (s : State) : State :=
  (s.writeLine x.line ((s.line x.line).configured x .plain (s.line x.line).level)).present x.line

/-- R75, R76: CONFIGURE by the caller with a function code other than MIRROR. -/
def State.configureBody (caller : Host) (ps : List Byte) (s : State) : State × Reply :=
  match s.configureCheck caller ps with
  | .error st => (s, Reply.refuse st)
  | .ok x     => (s.configurePlain x, Reply.ok)

/-- CONFIGURE (R75, R76): taken while the pending CONFIGURE does not ask for MIRROR. -/
def execConfigure (p : Host) (s : State) : Host.Outcome State Fault Refusal :=
  s.lineMatrixTakes p .configure (fun ps => param ps 5 != mirrorCode) (State.configureBody p)

/-- R75, check 4: the mirror source and invert, if the direction, source and invert are right. -/
def mirrorParams (x : LineSettings) (ps : List Byte) : Option (Line × Bool) :=
  match x.direction, lineOf (param ps 6).toNat, bitOf (param ps 7).toNat with
  | .output, some source, some invert => if source = x.line then none else some (source, invert)
  | _, _, _ => none

/-- R89: a CONFIGURE with function MIRROR carried out. A source that is OUT faults the mirror at once, with MIRROR_FAULT
to the caller; a source that is IN is followed, and faults the mirror only as it is configured to OUT afterwards (R91), though
the second row of R93 puts the fault here (log entry 27). -/
def State.configureMirrorLine (caller : Host) (x : LineSettings) (source : Line) (invert : Bool) (s : State) : State :=
  let r := s.line x.line
  let t :=
    match (s.line source).direction with
    | .output =>
      (s.raise caller (.mirrorFault x.line source)).writeLine x.line
        (r.configured x (.mirror source invert true) r.level)
    | .input =>
      s.writeLine x.line (r.configured x (.mirror source invert false) (xor (s.input source).filtered invert))
  t.present x.line

/-- R75, R89: CONFIGURE by the caller with function MIRROR. -/
def State.configureMirrorBody (caller : Host) (ps : List Byte) (s : State) : State × Reply :=
  match s.configureCheck caller ps with
  | .error st => (s, Reply.refuse st)
  | .ok x =>
    match mirrorParams x ps with
    | none   => (s, Reply.refuse .badParam)
    | some m => (s.configureMirrorLine caller x m.1 m.2, Reply.ok)

/-- CONFIGURE_MIRROR (R75, R89): taken while the pending CONFIGURE asks for MIRROR. -/
def execConfigureMirror (p : Host) (s : State) : Host.Outcome State Fault Refusal :=
  s.lineMatrixTakes p .configure (fun ps => param ps 5 == mirrorCode) (State.configureMirrorBody p)

/-- R94: the checks of PULSE, in order: the line and the pulse level, or the status that refuses. -/
def State.pulseCheck (s : State) (caller : Host) (ps : List Byte) : Except Status (Line × Level) :=
  match lineOf (param ps 1).toNat, bitOf (param ps 2).toNat with
  | some i, some v =>
    if param16 ps 3 = 0 then .error .badParam
    else
      match s.holderCheck caller (param ps 0).toNat [i] with
      | some st => .error st
      | none =>
        if (s.line i).function != .plain then .error .busy
        else if (s.line i).direction = .input then .error .badParam
        else .ok (i, v)
  | _, _ => .error .badParam

/-- R95: a pulse started on line `i`. -/
def State.startPulse (i : Line) (v : Level) (duration : Nat) (s : State) : State :=
  s.driveLine i { s.line i with level := v, function := .pulse v (s.line i).level duration }

/-- R94, R95: PULSE by the caller. -/
def State.pulseBody (caller : Host) (ps : List Byte) (s : State) : State × Reply :=
  match s.pulseCheck caller ps with
  | .error st => (s, Reply.refuse st)
  | .ok r     => (s.startPulse r.1 r.2 (param16 ps 3), Reply.ok)

/-- PULSE (R94, R95). -/
def execPulse (p : Host) (s : State) : Host.Outcome State Fault Refusal :=
  s.lineMatrixTakes p .pulse (fun _ => true) (State.pulseBody p)

/-- R78, R185: the raw, filtered and held masks. -/
def State.readLinesBody (_ps : List Byte) (s : State) : State × Reply :=
  (s, ⟨.ok, maskBytes (maskOf fun i => (s.line i).raw) ++ maskBytes (maskOf fun i => (s.input i).filtered)
    ++ maskBytes (maskOf fun i => (s.line i).holder.isSome)⟩)

/-- READ_LINES (R78). -/
def execReadLines (p : Host) (s : State) : Host.Outcome State Fault Refusal :=
  s.takes (State.ownerTakes p .readLines (fun _ => true) State.readLinesBody)

/-- R79, R187: the record of one line. -/
def State.queryLineBody (ps : List Byte) (s : State) : State × Reply :=
  match lineOf (param ps 0).toNat with
  | none   => (s, Reply.refuse .badParam)
  | some i => (s, ⟨.ok, lineBytes i (s.line i) (s.input i).filtered (s.allowedOn i)⟩)

/-- QUERY_LINE (R79). -/
def execQueryLine (p : Host) (s : State) : Host.Outcome State Fault Refusal :=
  s.takes (State.ownerTakes p .queryLine (fun _ => true) State.queryLineBody)

/-- R64: the board's state of a line written. -/
def State.setExternal (i : Line) (x : External) (s : State) : State := { s with external := s.external.set i x }

/-- EXTERNAL_STATE_CHANGE (R64, R66): the board changes a line at any time; while device reset is in force the raw level
stays at 0 and nothing is handed on (R67). -/
def execExternalStateChange (i : Line) (x : External) (s : State) : Host.Outcome State Fault Refusal :=
  .next (if s.inReset then s.setExternal i x
    else State.asOneEvent (fun t => t.writeLine i (t.line i)) (s.setExternal i x))

/-- R90: a report of line `i` with its new filtered level: the mirrors follow, in ascending line order, and the drive
test is applied to the line. -/
def State.takeReport (i : Line) (v : Level) (s : State) : State :=
  (allLines.foldl (fun t m => t.followMirror i v m) s).driveTest i v

/-- FILTERED_REPORT (R90): the oldest report of the line; without one nothing is taken. -/
def execFilteredReport (i : Line) (s : State) : Host.Outcome State Fault Refusal :=
  s.takes fun s =>
    match takeChange i s.reports with
    | some (v, rest) => State.asOneEvent (State.takeReport i v) { s with reports := rest }
    | none => s

end Sys2Proof.Machine
end

