-- ==== Sys2Proof/Machine/Monitor.lean ====
section
/-! DEFINITION. The input monitor: arrivals, sample ticks, SUBSCRIBE and UNSUBSCRIBE (spec 07). -/

namespace Sys2Proof.Machine

/-- R125, R126, R128: host `h` receives EDGE for a change of line `i` to `v`, if its subscription on the line watches
this filter and its edge mode matches. -/
def State.edgeFor (i : Line) (v : Level) (f : Filter) (s : State) (h : Host) : State :=
  match s.subscription h i with
  | some x => if x.filter = f && x.mode.matchesEdge v then s.raise h (.edge i v f) else s
  | none => s

/-- R125, R128: every host's matching subscription on the line raises its record; they go to different queues. -/
def State.raiseEdges (i : Line) (v : Level) (f : Filter) (s : State) : State :=
  allHosts.foldl (State.edgeFor i v f) s

/-- R125: an arrival of line `i` with its new raw level. The first arrival of a line is the one of the end of device reset,
where that made one (R133). -/
def State.takeArrival (i : Line) (v : Level) (s : State) : State :=
  State.raiseEdges i v .raw { s with
    inputs := updateLine s.inputs i fun r => { r with seen := v }
    startUp := s.startUp.filter fun j => j != i }

/-- ARRIVAL (R125): the oldest arrival of the line; without one nothing is taken. -/
def execArrival (i : Line) (s : State) : Host.Outcome State Fault Refusal :=
  s.takes fun s =>
    match takeChange i s.arrivals with
    | some (v, rest) => State.takeArrival i v { s with arrivals := rest }
    | none => s

/-- R127: the oldest sample dropped and the seen level added. -/
def InputRec.sample (r : InputRec) : InputRec :=
  { r with oldest := r.middle, middle := r.newest, newest := r.seen }

/-- R128: the three samples are equal and differ from the filtered level. -/
def InputRec.decides (r : InputRec) : Bool :=
  r.oldest == r.middle && r.middle == r.newest && r.newest != r.filtered

/-- R128: the filtered level changes to `v`: FILTERED records are raised, and a report is handed to the line matrix. -/
def State.changeFiltered (i : Line) (v : Level) (s : State) : State :=
  let t := State.raiseEdges i v .filtered { s with inputs := updateLine s.inputs i fun r => { r with filtered := v } }
  { t with reports := handOn ⟨i, v⟩ t.reports }

/-- R127, R128: a sample tick at one line. -/
def State.sampleLine (s : State) (i : Line) : State :=
  let t := { s with inputs := updateLine s.inputs i InputRec.sample }
  if (t.input i).decides then t.changeFiltered i (t.input i).newest else t

/-- R127, R128: a sample tick at every line, in ascending order. -/
def State.sampleAll (s : State) : State := State.asOneEvent (fun t => allLines.foldl State.sampleLine t) s

/-- SAMPLE_TICK (R127). While a command of the monitor has let one sample tick pass, no second one is taken (R123); and the
arrivals of the end of device reset are taken before the first (R133, log entry 25). -/
def execSampleTick (s : State) : Host.Outcome State Fault Refusal :=
  s.takes fun s =>
    if s.overdue .inputMonitor || !s.startUp.isEmpty then s else s.sampleAll.tickWaits .inputMonitor

/-- The subscriptions of host `h` on the lines of the mask replaced by `x` (R123, R124). -/
def State.writeSubscriptions (h : Host) (m : LineMask) (x : Option Subscription) (s : State) : State :=
  { s with subs := updateHost s.subs h fun t => (maskLines m).foldl (fun u i => updateLine u i fun _ => x) t }

/-- R123, R124: the number of lines on which host `h` holds a subscription. -/
def State.subscribedLines (s : State) (h : Host) : Nat := (allLines.filter fun i => (s.subscription h i).isSome).length

/-- R123: SUBSCRIBE by the caller. -/
def State.subscribeBody (caller : Host) (ps : List Byte) (s : State) : State × Reply :=
  if paramMask ps 0 = 0 then (s, Reply.refuse .badParam)
  else
    match edgeModeOf (param ps 3).toNat, filterOf (param ps 4).toNat with
    | some mode, some filter =>
      let t := s.writeSubscriptions caller (paramMask ps 0) (some ⟨mode, filter⟩)
      (t, ⟨.ok, [byteOf (t.subscribedLines caller)]⟩)
    | _, _ => (s, Reply.refuse .badParam)

/-- SUBSCRIBE (R123). The subscription table is empty when the arrivals of the end of device reset are taken (R133): none
is taken before them (log entry 25). -/
def execSubscribe (p : Host) (s : State) : Host.Outcome State Fault Refusal :=
  s.takes fun s =>
    if s.startUp.isEmpty then s.ownerTakes p .subscribe (fun _ => true) (State.subscribeBody p) else s

/-- R124: UNSUBSCRIBE by the caller. -/
def State.unsubscribeBody (caller : Host) (ps : List Byte) (s : State) : State × Reply :=
  if paramMask ps 0 = 0 then (s, Reply.refuse .badParam)
  else
    let t := s.writeSubscriptions caller (paramMask ps 0) none
    (t, ⟨.ok, [byteOf (t.subscribedLines caller)]⟩)

/-- UNSUBSCRIBE (R124). -/
def execUnsubscribe (p : Host) (s : State) : Host.Outcome State Fault Refusal :=
  s.takes (State.ownerTakes p .unsubscribe (fun _ => true) (State.unsubscribeBody p))

end Sys2Proof.Machine
end

