-- ==== Sys2Proof/Config.lean ====
section
/-! DEFINITION. What the spec leaves to the part: constants with no body, of which nothing can be proved. -/

namespace Sys2Proof

/-- R189: a low pulse on RST# of 1 µs or more and shorter than 10 µs "either causes a full device reset, as a longer
pulse does, or has no effect at all; which of the two it does is not specified". The free value, one for each such
pulse: `true` where pulse number `k` causes the reset. (Log entry 1.) -/
opaque Config.shortPulseResets : Nat → Bool

end Sys2Proof
end

