-- ==== Sys2Proof/Machine/Reset.lean ====
section
/-! DEFINITION. Device reset and its end (R67, R105, R156, R189). -/

namespace Sys2Proof.Machine

/-- R189: every block takes the values its chapter gives for device reset. The board's lines are not the part's (R64);
the commands that wait and the count of free values are the model's own. -/
def State.enterReset (s : State) : State :=
  { State.reset with external := s.external, freeCount := s.freeCount, pending := s.pending }

/-- R189: a low pulse whose effect is not specified: the free value decides between a device reset and no effect. -/
def State.shortPulse (s : State) : State :=
  let t := { s with freeCount := s.freeCount + 1 }
  if Config.shortPulseResets s.freeCount then t.enterReset else t

/-- R189: a low pulse on RST#. At 10 µs or more it resets the part, below 1 µs it has no effect. -/
def State.pulseReset (ns : Nat) (s : State) : State :=
  if 10000 ≤ ns then s.enterReset else if ns < 1000 then s else s.shortPulse

/-- DEVICE_RESET (R189). -/
def execDeviceReset (cause : ResetCause) (s : State) : Host.Outcome State Fault Refusal :=
  .next (match cause with
    | .powerOn   => s.enterReset
    | .rstLow ns => s.pulseReset ns)

/-- R105: the supervisor port the straps name. -/
def Straps.supervisorPort (x : Straps) : Option Host := if x.supen then some x.sup else none

/-- R156: the bus address the straps select, 0x38 plus ADS1:ADS0. -/
def Straps.address (x : Straps) : BitVec 7 := 0x38#7 + BitVec.ofNat 7 x.ads.val

/-- R67: line `i` evaluated once against the board. -/
def State.evaluateLine (s : State) (i : Line) : State := State.asOneEvent (fun t => t.writeLine i (t.line i)) s

/-- R67: every line evaluated. The rules give the evaluation no order of the lines: each arrival stands in a list of its
own, so that they are taken in any order (log entry 23). -/
def State.evaluateLines (s : State) : State := allLines.foldl State.evaluateLine s

/-- R67, R105, R156, R189: device reset ends: the straps are sampled and the lines evaluated. -/
def State.leaveReset (x : Straps) (s : State) : State :=
  let t := State.evaluateLines
    { s with inReset := false, supervisor := Straps.supervisorPort x, busAddress := Straps.address x }
  { t with startUp := allLines.filter fun i => (t.line i).raw }

/-- DEVICE_RESET_END (R67): the end of the device reset in force; without one there is nothing to end. -/
def execDeviceResetEnd (x : Straps) (s : State) : Host.Outcome State Fault Refusal :=
  .next (if s.inReset then s.leaveReset x else s)

end Sys2Proof.Machine
end

