-- ==== Sys2Proof/Machine/Supervision.lean ====
section
/-! DEFINITION. REVOKE, RESERVE, DETACH and CLEAR_HOST (spec 06). -/

namespace Sys2Proof.Machine

/-- R107: REVOKE. -/
def State.revokeBody (caller : Host) (ps : List Byte) (s : State) : State × Reply :=
  if !s.isSupervisor caller then (s, Reply.refuse .notSupervisor)
  else
    match s.findLease (param ps 0).toNat with
    | none   => (s, Reply.refuse .noLease)
    | some l => (s.endLeaseAndScan l .revoke, Reply.ok)

/-- REVOKE (R106, R107). -/
def execRevoke (p : Host) (s : State) : Host.Outcome State Fault Refusal :=
  s.takes (State.asOneEvent (State.leaseControllerTakes p .revoke (State.revokeBody p)))

/-- R110, step 1: the allowed-host set of every line of the mask replaced. -/
def State.reserveLines (m : LineMask) (a : HostSet) (s : State) : State :=
  { s with allowed := (maskLines m).foldl (fun t i => updateLine t i fun _ => a) s.allowed }

/-- R43: waiting claim `c` has a line of the mask on which the set does not allow its host. -/
def excludedBy (m : LineMask) (a : HostSet) (c : Claim) : Bool :=
  !HostSet.has a c.host && c.entries.any fun e => m.getLsbD e.line.val

/-- R110: the sets replaced, the excluded claims purged (R43), and the scan if one was. -/
def State.reserveSets (m : LineMask) (a : HostSet) (s : State) : State :=
  ((s.reserveLines m a).removeClaims (excludedBy m a) (some .denied)).scanIf (s.queue.any (excludedBy m a))

/-- R110: RESERVE. -/
def State.reserveBody (caller : Host) (ps : List Byte) (s : State) : State × Reply :=
  if !s.isSupervisor caller then (s, Reply.refuse .notSupervisor)
  else if paramMask ps 0 = 0 then (s, Reply.refuse .badParam)
  else
    match hostSetOf (param ps 3) with
    | none => (s, Reply.refuse .badParam)
    | some a =>
      (s.reserveSets (paramMask ps 0) a,
        ⟨.ok, [byteOf (s.queue.filter (excludedBy (paramMask ps 0) a)).length]⟩)

/-- RESERVE (R106, R110). -/
def execReserve (p : Host) (s : State) : Host.Outcome State Fault Refusal :=
  s.takes (State.leaseControllerTakes p .reserve (State.reserveBody p))

/-- R113: the two counts of a teardown of host `n`: leases ended and waiting claims removed. -/
def State.teardownCounts (n : Host) (s : State) : List Byte :=
  [byteOf (s.leasesOf n).length, byteOf (s.queue.filter fun c => c.host == n).length]

/-- R113: DETACH by the caller. -/
def State.detachBody (caller : Host) (_ps : List Byte) (s : State) : State × Reply :=
  (s.teardown caller none, ⟨.ok, s.teardownCounts caller⟩)

/-- DETACH (R113, R114). -/
def execDetach (p : Host) (s : State) : Host.Outcome State Fault Refusal :=
  s.takes (State.asOneEvent (State.leaseControllerTakes p .detach (State.detachBody p)))

/-- R113: CLEAR_HOST by the supervisor. -/
def State.clearHostBody (caller : Host) (ps : List Byte) (s : State) : State × Reply :=
  if !s.isSupervisor caller then (s, Reply.refuse .notSupervisor)
  else
    match hostOf (param ps 0).toNat with
    | none   => (s, Reply.refuse .badParam)
    | some n => (s.teardown n (some caller), ⟨.ok, s.teardownCounts n⟩)

/-- CLEAR_HOST (R106, R113, R114). -/
def execClearHost (p : Host) (s : State) : Host.Outcome State Fault Refusal :=
  s.takes (State.asOneEvent (State.leaseControllerTakes p .clearHost (State.clearHostBody p)))

end Sys2Proof.Machine
end

