-- ==== Sys2Proof/Machine/Timers.lean ====
section
/-! DEFINITION. The millisecond tick (R99, R139) and the expiries that fall due on it (R23, R39, R54, R97, R100).
Those of the bus timer are in Machine/Bus.lean. -/

namespace Sys2Proof.Machine

/-- R20, R49: the renew timer and the offer timer of a lease at a millisecond tick; each stays at 0. -/
def Lease.tick (l : Lease) : Lease :=
  { l with
    remaining := l.remaining.map fun r => r - 1
    offer := l.offer.map fun o => { o with remaining := o.remaining - 1 } }

/-- R38: the wait timer at a millisecond tick. -/
def Claim.tick (c : Claim) : Claim := { c with remaining := c.remaining - 1 }

/-- R96: a pulse at a millisecond tick. -/
def LineFunction.tick : LineFunction → LineFunction
  | .plain => .plain
  | .mirror source invert fault => .mirror source invert fault
  | .pulse level revert remaining => .pulse level revert (remaining - 1)

/-- R96, R99: the pulse and settle remainings of a line at a millisecond tick. -/
def LineRec.tick (r : LineRec) : LineRec := { r with settle := r.settle - 1, function := r.function.tick }

/-- R176: the bus timer at a millisecond tick; a stopped timer stands. -/
def BusTimer.tick (t : BusTimer) : BusTimer := if t.running then { t with remaining := t.remaining - 1 } else t

/-- R176: a port at a millisecond tick. A bus timeout that has come is taken before the tick (log entry 14). -/
def PortState.tick (q : PortState) : PortState := { q.takeTimeout with timer := q.takeTimeout.timer.tick }

/-- R20, R38, R49, R96, R99, R139, R176: every timer of the part counts the tick, and the timestamp counter advances. -/
def State.countTick (s : State) : State :=
  { s with
    leases := s.leases.map Lease.tick
    queue := s.queue.map Claim.tick
    lines := mapTable LineRec.tick s.lines
    ports := mapTable PortState.tick s.ports
    timestamp := s.timestamp + 1 }

/-- R100: the drive test of line `i` against the filtered level as the input monitor holds it. -/
def State.testLine (s : State) (i : Line) : State := s.driveTest i (s.input i).filtered

/-- R99: a millisecond tick: the timers count first, then the drive test is applied to every line. The rules give no order
of the lines: those of `order` come first (a second test of a line changes nothing; log entry 8). While a line command has
let one tick pass, no second one is taken (R70). -/
def State.tick (order : List Line) (s : State) : State :=
  if s.overdue .lineMatrix then s
  else (order ++ allLines).foldl State.testLine (s.countTick.tickWaits .lineMatrix)

/-- MILLISECOND_TICK (R99). -/
def execMillisecondTick (order : List Line) (s : State) : Host.Outcome State Fault Refusal :=
  s.takes (State.tick order)

/-- SETTLE_EXPIRY (R99, R100): the settle of the line reaches 0. It does so at a millisecond tick and at no other point, so
the event is the tick that brings it there, with the drive test of the line first (log entry 9). -/
def execSettleExpiry (i : Line) (s : State) : Host.Outcome State Fault Refusal :=
  s.takes fun s => if (s.line i).settle = 1 then s.tick [i] else s

/-- R20, R23: the live lease with the id, if its expiry is due. -/
def State.dueExpiry (s : State) (id : Nat) : Option Lease :=
  match s.findLease id with
  | some l => if l.remaining = some 0 then some l else none
  | none   => none

/-- RENEW_EXPIRY (R23): a due expiry ends the lease; one that is not due is not taken. -/
def execRenewExpiry (id : Nat) (s : State) : Host.Outcome State Fault Refusal :=
  s.takes fun s =>
    match s.dueExpiry id with
    | some l => State.asOneEvent (State.endLeaseAndScan l .expiry) s
    | none   => s

/-- R38, R39: the waiting claim with the ticket, if its lapse is due. -/
def State.dueLapse (s : State) (ticket : Nat) : Option Claim :=
  match s.findClaim ticket with
  | some c => if c.remaining = 0 then some c else none
  | none   => none

/-- WAIT_LAPSE (R39): a due lapse removes the claim with CLAIM_LAPSED TIMEOUT, and the scan runs. -/
def execWaitLapse (ticket : Nat) (s : State) : Host.Outcome State Fault Refusal :=
  s.takes fun s =>
    match s.dueLapse ticket with
    | some c => (s.removeClaims (fun d => d.ticket == c.ticket) (some .timeout)).scan
    | none   => s

/-- R49, R54: the live lease with the id and its target, if the lapse of its offer is due. -/
def State.dueOfferLapse (s : State) (id : Nat) : Option (Lease × Host) :=
  match s.findLease id with
  | some l =>
    match l.offer with
    | some o => if o.remaining = 0 then some (l, o.target) else none
    | none   => none
  | none => none

/-- OFFER_LAPSE (R54): a due lapse returns the lease to ACTIVE; both parties receive a record. -/
def execOfferLapse (id : Nat) (s : State) : Host.Outcome State Fault Refusal :=
  s.takes fun s =>
    match s.dueOfferLapse id with
    | some (l, target) =>
      ((s.updateLease id Lease.activated).raise l.holder (.offerLapsed id .timeout)).raise target
        (.offerWithdrawn id .timeout)
    | none => s

/-- R97: the pulse of line `i` ends at its revert level. -/
def State.completePulse (i : Line) (revert : Level) (s : State) : State :=
  (s.driveLine i { s.line i with level := revert, function := .plain }).raiseHolder (s.line i).holder
    (.pulseDone i (((s.line i).holder.map fun b => b.lease).getD 0))

/-- PULSE_COMPLETION (R97): a due completion is taken; one that is not due is not. -/
def execPulseCompletion (i : Line) (s : State) : Host.Outcome State Fault Refusal :=
  s.takes fun s =>
    match (s.line i).function with
    | .pulse _ revert 0 => State.asOneEvent (State.completePulse i revert) s
    | .pulse _ _ (_ + 1) | .plain | .mirror _ _ _ => s

end Sys2Proof.Machine
end

