-- ==== Sys2Proof/Machine/Transfer.lean ====
section
/-! DEFINITION. The offer protocol: OFFER, ACCEPT and DECLINE (spec 03). -/

namespace Sys2Proof.Machine

/-- R47: the four checks of an OFFER, in order: the lease and the target, or the status that refuses it. -/
def State.offerCheck (s : State) (caller : Host) (ps : List Byte) : Except Status (Lease × Host) :=
  match s.heldLease caller (param ps 0).toNat with
  | .error st => .error st
  | .ok l =>
    match hostOf (param ps 1).toNat with
    | none => .error .badParam
    | some target =>
      if target = caller then .error .badParam
      else if l.offer.isSome then .error .busy
      else if !s.allowsAll target l.entries then .error .denied
      else .ok (l, target)

/-- R47, R48: the lease becomes OFFERED and the target receives OFFERED. -/
def State.makeOffer (l : Lease) (target : Host) (s : State) : State :=
  (s.updateLease l.id fun m => { m with offer := some ⟨target, offerMs⟩ }).raise target
    (.offered l.id l.holder l.entries.length)

/-- R47: OFFER by the caller. -/
def State.offerBody (caller : Host) (ps : List Byte) (s : State) : State × Reply :=
  match s.offerCheck caller ps with
  | .error st => (s, Reply.refuse st)
  | .ok r     => (s.makeOffer r.1 r.2, Reply.ok)

/-- OFFER (R47). -/
def execOffer (p : Host) (s : State) : Host.Outcome State Fault Refusal :=
  s.takes (State.leaseControllerTakes p .offer (State.offerBody p))

/-- R51: lease `l` passes to the caller; supersession follows (R42), and the scan if it removed a claim. -/
def State.acceptLease (caller : Host) (l : Lease) (s : State) : State :=
  ((s.transfer l caller).removeClaims (supersededBy caller l.entries) (some .superseded)).scanIf
    (s.queue.any (supersededBy caller l.entries))

/-- R50, R51: ACCEPT by the caller. -/
def State.acceptBody (caller : Host) (ps : List Byte) (s : State) : State × Reply :=
  match s.offeredLease caller (param ps 0).toNat with
  | none => (s, Reply.refuse .noOffer)
  | some l =>
    if !s.allowsAll caller l.entries then (s, Reply.refuse .denied)
    else (s.acceptLease caller l, Reply.ok)

/-- ACCEPT (R50, R51). -/
def execAccept (p : Host) (s : State) : Host.Outcome State Fault Refusal :=
  s.takes (State.leaseControllerTakes p .accept (State.acceptBody p))

/-- R53: DECLINE by the caller. -/
def State.declineBody (caller : Host) (ps : List Byte) (s : State) : State × Reply :=
  match s.offeredLease caller (param ps 0).toNat with
  | none   => (s, Reply.refuse .noOffer)
  | some l => ((s.updateLease l.id Lease.activated).raise l.holder (.offerLapsed l.id .declined), Reply.ok)

/-- DECLINE (R53). -/
def execDecline (p : Host) (s : State) : Host.Outcome State Fault Refusal :=
  s.takes (State.leaseControllerTakes p .decline (State.declineBody p))

end Sys2Proof.Machine
end

