-- ==== Sys2Proof/Machine/Dispatch.lean ====
section
/-! DEFINITION. One arm per command or event: its meaning. -/

namespace Sys2Proof.Machine

def exec (i : Instr) (s : State) : Host.Outcome State Fault Refusal :=
  match i with
  | .deviceReset cause => Sys2Proof.Machine.execDeviceReset cause s
  | .deviceResetEnd straps => Sys2Proof.Machine.execDeviceResetEnd straps s
  | .millisecondTick order => Sys2Proof.Machine.execMillisecondTick order s
  | .settleExpiry line => Sys2Proof.Machine.execSettleExpiry line s
  | .renewExpiry lease => Sys2Proof.Machine.execRenewExpiry lease s
  | .waitLapse ticket => Sys2Proof.Machine.execWaitLapse ticket s
  | .offerLapse lease => Sys2Proof.Machine.execOfferLapse lease s
  | .pulseCompletion line => Sys2Proof.Machine.execPulseCompletion line s
  | .busTimeout port => Sys2Proof.Machine.execBusTimeout port s
  | .busError port condition => Sys2Proof.Machine.execBusError port condition s
  | .startCondition port => Sys2Proof.Machine.execStartCondition port s
  | .stopCondition port => Sys2Proof.Machine.execStopCondition port s
  | .addressByte port byte => Sys2Proof.Machine.execAddressByte port byte s
  | .commandFrame port bytes scl => Sys2Proof.Machine.execCommandFrame port bytes scl s
  | .responseRead port answers scl => Sys2Proof.Machine.execResponseRead port answers scl s
  | .claim port => Sys2Proof.Machine.execClaim port s
  | .cancelClaim port => Sys2Proof.Machine.execCancelClaim port s
  | .release port => Sys2Proof.Machine.execRelease port s
  | .renew port => Sys2Proof.Machine.execRenew port s
  | .renewAll port => Sys2Proof.Machine.execRenewAll port s
  | .queryLease port => Sys2Proof.Machine.execQueryLease port s
  | .offer port => Sys2Proof.Machine.execOffer port s
  | .accept port => Sys2Proof.Machine.execAccept port s
  | .decline port => Sys2Proof.Machine.execDecline port s
  | .revoke port => Sys2Proof.Machine.execRevoke port s
  | .reserve port => Sys2Proof.Machine.execReserve port s
  | .detach port => Sys2Proof.Machine.execDetach port s
  | .clearHost port => Sys2Proof.Machine.execClearHost port s
  | .setLevel port => Sys2Proof.Machine.execSetLevel port s
  | .configure port => Sys2Proof.Machine.execConfigure port s
  | .configureMirror port => Sys2Proof.Machine.execConfigureMirror port s
  | .pulse port => Sys2Proof.Machine.execPulse port s
  | .readLines port => Sys2Proof.Machine.execReadLines port s
  | .queryLine port => Sys2Proof.Machine.execQueryLine port s
  | .externalStateChange line external => Sys2Proof.Machine.execExternalStateChange line external s
  | .filteredReport line => Sys2Proof.Machine.execFilteredReport line s
  | .arrival line => Sys2Proof.Machine.execArrival line s
  | .sampleTick => Sys2Proof.Machine.execSampleTick s
  | .subscribe port => Sys2Proof.Machine.execSubscribe port s
  | .unsubscribe port => Sys2Proof.Machine.execUnsubscribe port s
  | .poll port => Sys2Proof.Machine.execPoll port s
  | .attention port => Sys2Proof.Machine.execAttention port s

end Sys2Proof.Machine
end

