-- ==== Sys2Proof/Safety.lean ====
section
/-! DEFINITION. The laws of the device (spec 00, section 6: "a small number of laws of the device hold in every reachable
state"), each from the rule that owns the state it constrains. -/

namespace Sys2Proof.Machine

/-- R2, R29: the line set of a lease or a claim: at least one line, in strictly ascending order. -/
def EntriesOk (es : List LineEntry) : Prop := es ≠ [] ∧ es.Pairwise fun a b => a.line < b.line

/-- R2, R3: the fields of a live lease. -/
def Lease.Ok (l : Lease) : Prop :=
  (1 ≤ l.id ∧ l.id ≤ 255) ∧ EntriesOk l.entries ∧ l.interval ≤ 255
    ∧ (l.remaining = none ↔ l.interval = 0) ∧ (∀ r ∈ l.remaining, r ≤ l.interval * unitMs)
    ∧ (∀ o ∈ l.offer, o.target ≠ l.holder ∧ o.remaining ≤ offerMs)

/-- R29: the fields of a waiting claim. -/
def Claim.Ok (c : Claim) : Prop :=
  (1 ≤ c.ticket ∧ c.ticket ≤ 255) ∧ EntriesOk c.entries ∧ c.interval ≤ 255 ∧ c.remaining ≤ 255 * unitMs

/-- R1 to R4: the lease table holds at most 16 leases with distinct ids, in ascending order, each in its ranges. -/
def LeaseTableLaw (s : State) : Prop :=
  s.leases.length ≤ leaseEntries ∧ (s.leases.Pairwise fun a b => a.id < b.id) ∧ (∀ l ∈ s.leases, l.Ok)
    ∧ (1 ≤ s.leaseCounter ∧ s.leaseCounter ≤ 255)

/-- R1: no line belongs to the line sets of two leases at once. -/
def DisjointLaw (s : State) : Prop := s.leases.Pairwise fun a b => sharesLine a.entries b.entries = false

/-- R28, R29, R30, R31: at most 8 waiting claims, at most 2 of any one host, with distinct tickets, each in its ranges. -/
def WaitQueueLaw (s : State) : Prop :=
  s.queue.length ≤ waitPlaces ∧ (∀ h : Host, (s.queue.filter fun c => c.host == h).length ≤ claimsPerHost)
    ∧ (s.queue.Pairwise fun a b => a.ticket ≠ b.ticket) ∧ (∀ c ∈ s.queue, c.Ok)
    ∧ (1 ≤ s.ticketCounter ∧ s.ticketCounter ≤ 255)

/-- R30: no waiting claim of a host shares a line with a lease held by that host or with another waiting claim of that
host. -/
def OwnLineLaw (s : State) : Prop :=
  (∀ c ∈ s.queue, ∀ l ∈ s.leases, l.holder = c.host → sharesLine c.entries l.entries = false)
    ∧ s.queue.Pairwise fun a b => a.host = b.host → sharesLine a.entries b.entries = false

/-- R43: the host of every waiting claim is allowed on every line of the claim. -/
def ReservationLaw (s : State) : Prop := ∀ c ∈ s.queue, s.allowsAll c.host c.entries = true

/-- No claim of the list would be granted by the scan, with `older` the claims before it. -/
def State.noneGrantable (s : State) (older : List Claim) : List Claim → Bool
  | [] => true
  | c :: rest => !s.scanGrants older c && State.noneGrantable s (older ++ [c]) rest

/-- R36: no claim stays in the wait queue while every one of its lines is free, no older waiting claim shares a line with
it, and the lease table has a free entry. -/
def NoGrantableLaw (s : State) : Prop := s.noneGrantable [] s.queue = true

/-- R68: a line's binding names lease L and its holder exactly when L is in the lease table and covers the line. -/
def BindingLaw (s : State) : Prop :=
  (∀ i : Line, ∀ b ∈ (s.line i).holder, ∃ l ∈ s.leases, coversLine l.entries i = true ∧ b = ⟨l.id, l.holder⟩)
    ∧ (∀ l ∈ s.leases, ∀ e ∈ l.entries, (s.line e.line).holder = some ⟨l.id, l.holder⟩)

/-- R83: a line has a running pulse, an active mirror or a set mismatch flag only while it is held. -/
def FreeLineLaw (s : State) : Prop :=
  ∀ i : Line, (s.line i).holder = none → (s.line i).function = .plain ∧ (s.line i).mismatch = false

/-- R65, R66, R67: the keeper level equals the raw level; while device reset is in force the raw level is 0, and otherwise it
is the level R65 gives. -/
def RawLevelLaw (s : State) : Prop :=
  ∀ i : Line, (s.line i).keeper = (s.line i).raw
    ∧ (s.line i).raw = if s.inReset then false else rawLevel s.external[i] (s.line i)

/-- R61, R95, R96, R99: the settle remaining is 0 to 4 ms; a line in the middle of a pulse is OUT, drives the pulse level
as its output level, and has at most 65535 ms left. -/
def LineRangeLaw (s : State) : Prop :=
  ∀ i : Line, (s.line i).settle ≤ settleMs
    ∧ ∀ level revert remaining, (s.line i).function = .pulse level revert remaining →
        (s.line i).direction = .output ∧ (s.line i).level = level ∧ remaining ≤ 65535

/-- R87, R88: every mirror has direction OUT, and every unfaulted mirror has a source whose direction is IN. -/
def MirrorLaw (s : State) : Prop :=
  ∀ i source : Line, ∀ invert fault : Bool, (s.line i).function = .mirror source invert fault →
    (s.line i).direction = .output ∧ (fault = false → (s.line source).direction = .input)

/-- The levels of the changes of line `i` in flight, oldest first. -/
def inFlight (i : Line) (batches : List (List LevelChange)) : List Level :=
  (batches.flatten.filter fun c => c.line = i).map fun c => c.level

/-- R87, R90, R93: once no report of its source is in flight, an unfaulted mirror's output level is its source's filtered
level exclusive-or its invert; and the newest report in flight carries the filtered level (R128). -/
def MirrorFollowsLaw (s : State) : Prop :=
  (∀ i : Line, ∀ v ∈ (inFlight i s.reports).getLast?, v = (s.input i).filtered)
    ∧ ∀ i source : Line, ∀ invert : Bool, (s.line i).function = .mirror source invert false →
        inFlight source s.reports = [] → (s.line i).level = xor (s.input source).filtered invert

/-- Each level of the list is the opposite of the one before it. -/
def Alternating (v : Level) : List Level → Prop
  | [] => True
  | w :: rest => w = !v ∧ Alternating w rest

/-- R121, R125: the arrivals of a line in flight alternate from the seen level on, and once all are taken the seen level
equals the raw level. -/
def ArrivalLaw (s : State) : Prop :=
  ∀ i : Line, Alternating (s.input i).seen (inFlight i s.arrivals)
    ∧ (inFlight i s.arrivals).getLast?.getD (s.input i).seen = (s.line i).raw

/-- R67, R133: each line whose arrival of the end of device reset is not yet taken has one in flight, and while there is
such a line the subscription table is empty. -/
def StartUpLaw (s : State) : Prop :=
  (∀ i ∈ s.startUp, inFlight i s.arrivals ≠ []) ∧ (s.startUp ≠ [] → ∀ h i, s.subscription h i = none)

/-- R138: the seqs of the records run consecutively modulo 256 from `n` on. -/
def Consecutive (n : Byte) : List EventRecord → Prop
  | [] => True
  | r :: rest => r.seq = n ∧ Consecutive (n + 1) rest

/-- R138, R141, R149: the laws of one event queue. -/
def EventQueue.Ok (q : EventQueue) : Prop :=
  q.records.length ≤ queueRecords ∧ Consecutive (q.lastAck + 1) q.records
    ∧ q.counter = q.lastAck + 1 + BitVec.ofNat 8 q.records.length
    ∧ q.lost ≤ 255 ∧ (q.lost ≠ 0 → q.records.length = queueRecords)
    ∧ q.attention = (q.enable && !q.records.isEmpty)

/-- R138, R141, R149: each event queue keeps its laws. -/
def EventQueueLaw (s : State) : Prop := ∀ h : Host, (s.eventQueue h).Ok

/-- R164: the repeat guard is present exactly while the slot is READY. -/
def PortState.GuardOk (q : PortState) : Prop := q.repeatGuard.isSome = true ↔ ∃ st tag code data, q.slot = .ready st tag code data

/-- R70, R123: a port has let a tick pass only with a command that waits for the line matrix or the input monitor. -/
def PortState.TickedOk (q : PortState) : Prop :=
  q.ticked = true → q.waitsFor .lineMatrix = true ∨ q.waitsFor .inputMonitor = true

/-- R165, R166, R167: while the slot is PENDING the port is not in RX, and the receive buffer holds the frame whose tag
and command the slot names, whole and of a length that suits the command. -/
def PortState.PendingOk (q : PortState) : Prop :=
  ∀ tag cmd, q.slot = .pending tag cmd →
    q.txn ≠ .rx ∧ q.buffer.getD 0 0 = cmd.code ∧ q.buffer.getD 1 0 = tag ∧ cmd ≠ .identify
      ∧ q.buffer.length = 4 + (q.buffer.getD 2 0).toNat ∧ cmd.lengthOk q.params = true

/-- R158: what SDA shows for bit `k` of a byte the port sends, the most significant first; after the last it is released. -/
def bitOnSda (b : Byte) (k : Nat) : Sda := if k < 8 ∧ b.getMsbD k = false then .low else .released

/-- R158: SDA is low for an ACK, from the falling edge after the byte's eighth bit until the ninth clock is over, and for the
0 bits of a byte the port sends; at every other time it is released. In TX the bus timer runs while SCL is low and the next
bit is shown; while SCL is high the bit taken last stands, and before the first bit SDA is released. -/
def PortState.SdaOk (q : PortState) : Prop :=
  q.sda = match q.ack, q.image with
    | .driven, _ | .clocked, _ => .low
    | .decided, _ | .absent, none => .released
    | .absent, some im =>
      if q.timer.running then bitOnSda (im.bytes.getD im.position 0xFF) im.bit
      else if im.bit = 0 then .released
      else bitOnSda (im.bytes.getD im.position 0xFF) (im.bit - 1)

/-- R158, R162, R176: an ACK is under way only in RX, in TX before the first bit, and at a port standing aside; in RX and TX
the bus timer runs while it is driven and SCL is low, and stands before and after. -/
def PortState.AckOk (q : PortState) : Prop :=
  (q.ack ≠ .absent → (q.txn = .rx ∨ q.txn = .tx ∨ q.txn = .aside)
      ∧ ∀ im, q.image = some im → im.position = 0 ∧ im.bit = 0)
    ∧ (q.ack = .driven → q.txn ≠ .aside → q.timer.running = true)
    ∧ (q.ack = .decided ∨ q.ack = .clocked → q.timer.running = false)

/-- R155, R158, R160, R171, R176: the transaction's own state: the transmit image is present exactly in TX, with a position
in it or at its end and at most eight bits clocked; the bus timer runs only in RX and TX, holds at most 25 ms, and is at 0
there only while it runs, so that the timeout has come; the frame in reception is one that is not whole yet, and its CRC
register covers the write address byte and the bytes received. -/
def PortState.TxnOk (busAddress : BitVec 7) (q : PortState) : Prop :=
  (q.image.isSome = true ↔ q.txn = .tx)
    ∧ (∀ im, q.image = some im → im.position ≤ im.bytes.length ∧ im.bit ≤ 8)
    ∧ q.timer.remaining ≤ busTimeoutMs ∧ (q.timer.running = true → q.txn = .rx ∨ q.txn = .tx)
    ∧ (q.txn = .rx ∨ q.txn = .tx → q.timer.remaining = 0 → q.timer.running = true)
    ∧ q.AckOk ∧ q.SdaOk
    ∧ q.buffer.length ≤ 36
    ∧ (q.txn = .rx → q.crc = some (crcOf (addressOf busAddress false :: q.buffer))
        ∧ (3 ≤ q.buffer.length → (q.buffer.getD 2 0).toNat ≤ 32 ∧ q.buffer.length < 4 + (q.buffer.getD 2 0).toNat))

/-- R158: the ACK of a received byte after an edge that leaves SCL at the level given. -/
def Acknowledge.after : Acknowledge → Scl → Acknowledge
  | .decided, .low => .driven
  | .decided, .high => .decided
  | .driven, .low => .absent
  | .driven, .high => .clocked
  | .clocked, .low => .absent
  | .clocked, .high => .clocked
  | .absent, _ => .absent

/-- R70, R123, R155, R164, R165: the laws of the port engines. -/
def PortLaw (s : State) : Prop :=
  ∀ p : Host, (s.port p).GuardOk ∧ (s.port p).PendingOk ∧ (s.port p).TickedOk ∧ (s.port p).TxnOk s.busAddress

/-- R189: for the whole duration of a device reset every block holds the values its chapter gives for device reset. -/
def ResetLaw (s : State) : Prop := s.inReset = true → s = s.enterReset

/-! ### The words the statements use -/

/-- R168: device reset is over, and command `cmd` of port `p`, written with `tag`, waits for its owner. -/
def Waiting (s : State) (p : Host) (cmd : Cmd) (tag : Byte) : Prop :=
  s.inReset = false ∧ (s.port p).slot = .pending tag cmd

/-- R6: the command waits, and its port is the one the lease request arbiter serves next. -/
def Served (s : State) (p : Host) (cmd : Cmd) (tag : Byte) : Prop := Waiting s p cmd tag ∧ s.arbiterPick = some p

/-- Parameter byte `k` of the frame that waits at port `p`, as a number. -/
def State.arg (s : State) (p : Host) (k : Nat) : Nat := (param (s.port p).params k).toNat

/-- R169: port `p` is answered: its slot is READY with this status and data and the tag and command it held as PENDING,
its repeat guard is set to the accepted frame, no command waits there any more, and nothing else of any port changes. -/
def Answered (p : Host) (tag : Byte) (cmd : Cmd) (st : Status) (data : List Byte) (s t : State) : Prop :=
  (∀ q, q ≠ p → t.port q = s.port q)
    ∧ t.port p = { s.port p with
        slot := .ready st tag cmd.code data
        repeatGuard := some ⟨tag, cmd.code, frameCrc (s.port p).buffer⟩
        ticked := false }

/-- The row of the table that takes command `cmd` of port `p` from its owner (R168): every row but the events of the
board, the bus, the timers and the monitor. -/
def Instr.ownerCommand : Instr → Option (Host × Cmd)
  | .claim p => some (p, .claim)
  | .cancelClaim p => some (p, .cancelClaim)
  | .release p => some (p, .release)
  | .renew p => some (p, .renew)
  | .renewAll p => some (p, .renewAll)
  | .queryLease p => some (p, .queryLease)
  | .offer p => some (p, .offer)
  | .accept p => some (p, .accept)
  | .decline p => some (p, .decline)
  | .revoke p => some (p, .revoke)
  | .reserve p => some (p, .reserve)
  | .detach p => some (p, .detach)
  | .clearHost p => some (p, .clearHost)
  | .setLevel p => some (p, .setLevel)
  | .configure p => some (p, .configure)
  | .configureMirror p => some (p, .configure)
  | .pulse p => some (p, .pulse)
  | .readLines p => some (p, .readLines)
  | .queryLine p => some (p, .queryLine)
  | .subscribe p => some (p, .subscribe)
  | .unsubscribe p => some (p, .unsubscribe)
  | .poll p => some (p, .poll)
  | .attention p => some (p, .attention)
  | .deviceReset _ | .deviceResetEnd _ | .millisecondTick _ | .settleExpiry _ | .renewExpiry _ | .waitLapse _
  | .offerLapse _ | .pulseCompletion _ | .busTimeout _ | .busError _ _ | .startCondition _ | .stopCondition _
  | .addressByte _ _ | .commandFrame _ _ _ | .responseRead _ _ _ | .externalStateChange _ _ | .filteredReport _
  | .arrival _ | .sampleTick => none

/-- Of the two rows of CONFIGURE, CONFIGURE_MIRROR takes the command whose function code is MIRROR and CONFIGURE any
other (log entry 6); every other row takes its command whatever the parameters. -/
def Instr.takesParams (i : Instr) (ps : List Byte) : Bool :=
  match i with
  | .configure _ => param ps 5 != mirrorCode
  | .configureMirror _ => param ps 5 == mirrorCode
  | _ => true

/-- R140, R141, R142: the events arrived at host `h`'s queue, in this order, and nothing else did. -/
def Received (h : Host) (events : List Event) (s t : State) : Prop :=
  t.eventQueue h = events.foldl (fun q e => EventQueue.arrive t.timestamp e q) (s.eventQueue h)

/-- The changes of raw level of the lines, in the order of the lines (R66). -/
def rawChanges (lines : List Line) (s t : State) : List LevelChange :=
  (lines.filter fun i => (t.line i).raw != (s.line i).raw).map fun i => ⟨i, (t.line i).raw⟩

/-- R66: the changes of raw level of the lines, in the order of the lines, are handed to the input monitor as the arrivals
of one event, and no other arrival is. -/
def HandedOn (lines : List Line) (s t : State) : Prop :=
  t.arrivals = s.arrivals ++ (if rawChanges lines s t = [] then [] else [rawChanges lines s t])

/-- R63, R66, R99, R101: what a line record `old` becomes when its settings become those of `new` under external state
`x`: a change of driven value restarts the settle and clears the mismatch flag, the raw level is recomputed, and the
keeper follows it. -/
def LineRec.after (x : External) (old new : LineRec) : LineRec :=
  { new with
    settle := if new.driven = old.driven then new.settle else settleMs
    mismatch := if new.driven = old.driven then new.mismatch else false
    raw := rawLevel x new
    keeper := if rawLevel x new = old.raw then old.keeper else rawLevel x new }

/-- R87: line `m` is an unfaulted mirror of `source`. -/
def State.followsSource (s : State) (source m : Line) : Bool :=
  match (s.line m).function with
  | .mirror src _ false => src == source
  | .mirror _ _ true | .plain | .pulse _ _ _ => false

/-- The host a line is bound to is `h`. -/
def LineRec.heldBy (r : LineRec) (h : Host) : Bool := r.holder.map (fun b => b.host) == some h

/-- A mirror record with its fault set (R91); other records stand. -/
def LineRec.withFault (r : LineRec) : LineRec :=
  match r.function with
  | .mirror src invert _ => { r with function := .mirror src invert true }
  | .plain | .pulse _ _ _ => r

/-- R91: the MIRROR_FAULT records host `h` receives when line `source` is presented and is OUT, for the mirrors not in
`skip`. -/
def mirrorFaults (s : State) (source : Line) (skip : Line → Bool) (h : Host) : List Event :=
  (allLines.filter fun m => s.followsSource source m && (s.line m).heldBy h && !skip m).map fun m =>
    .mirrorFault m source

/-- R80, R81: the settings of a line parked with a fallback, from its record before the lease end. `level` is what a pulse
or a mirror leaves (steps 1 to 3); the other fields stand. -/
def LineRec.parkedTo (f : Fallback) (r : LineRec) : LineRec :=
  let level := match r.function with
    | .pulse _ revert _ => revert
    | .mirror _ _ fault => !fault && r.level
    | .plain => r.level
  let drive := if r.drive = .hiz then .pushPull else r.drive
  match f with
  | .float => { r with direction := .input, level := level, function := .plain }
  | .hold  => { r with level := level, function := .plain }
  | .low   => { r with direction := .output, drive := drive, level := false, function := .plain }
  | .high  => { r with direction := .output, drive := drive, level := true, function := .plain }

/-- The settings of a line (R83). -/
def LineRec.settings (r : LineRec) : Direction × Drive × Pull × Level := (r.direction, r.drive, r.pull, r.level)

/-- R82, R88: the parking of the entries makes line `source` one that is OUT. -/
def State.parksOut (s : State) (entries : List LineEntry) (source : Line) : Bool :=
  entries.any fun e => e.line == source && ((s.line source).parkedTo e.fallback).direction == .output

/-- R82, R91: what the parking of the entries leaves of the record of a line that is not one of them: a mirror of a line
parked OUT faults. -/
def State.besideParked (s : State) (entries : List LineEntry) (i : Line) : LineRec :=
  if allLines.any fun source => s.parksOut entries source && s.followsSource source i then
    LineRec.after s.external[i] (s.line i) (s.line i).withFault
  else s.line i

/-- R81, R82, R91: the lines after the parking of the entries: each of them parked and free, and each other line as its
mirror function leaves it. -/
def State.afterParking (s : State) (entries : List LineEntry) : State :=
  { s with lines := Vector.ofFn fun i =>
      match entries.find? fun e => e.line == i with
      | some e => { LineRec.after s.external[i] (s.line i) ((s.line i).parkedTo e.fallback) with
          holder := none, mismatch := false }
      | none => s.besideParked entries i }

/-- R81, R82, R91: the changes of raw level that the parking of the entries hands on: the parked lines first, then the
faulted mirrors, source by source (log entry 16). -/
def parkingChanges (s : State) (entries : List LineEntry) : List LevelChange :=
  rawChanges (entries.map (fun e => e.line) ++ (allLines.filter (coversLine entries)).flatMap fun source =>
    allLines.filter fun m => s.followsSource source m && !coversLine entries m) s (s.afterParking entries)

/-- R82, R91: the MIRROR_FAULT records host `h` receives when the entries are parked, source by source (log entry 16); a
mirror among the entries raises none. -/
def parkingFaults (s : State) (entries : List LineEntry) (h : Host) : List Event :=
  (allLines.filter (s.parksOut entries)).flatMap fun source => mirrorFaults s source (coversLine entries) h

/-- What a scan granted: its claims, each with its new lease id, in the order of the grants. -/
abbrev Grants := List (Claim × Nat)

/-- R14, R35: the lease of a granted claim: it has the claim's host, lines, fallbacks and renew interval, its renew timer
starts in full, and it is ACTIVE. -/
def grantedLease (g : Claim × Nat) : Lease :=
  ⟨g.2, g.1.host, g.1.entries, g.1.interval, if g.1.interval = 0 then none else some (g.1.interval * 20), none⟩

/-- R4: the ids that a number of grants take one after another, each the first from the counter on that is not in use. -/
def grantIds : Nat → List Nat → Nat → List Nat
  | 0, _, _ => []
  | n + 1, used, counter =>
    let id := assignNumber used leaseEntries counter
    id :: grantIds n (id :: used) (nextNumber id)

/-- R35, R68: the binding of line `i` after the grants of a scan that found it bound as `old`. -/
def holderAfter (grants : Grants) (i : Line) (old : Option Binding) : Option Binding :=
  match grants.find? fun g => coversLine g.1.entries i with
  | some g => some ⟨g.2, g.1.host⟩
  | none => old

/-- R34: one pass over the wait queue from the head to the tail: each claim with what the pass made of it, the id of its new
lease where it was granted, none where it stays. -/
abbrev Pass := List (Claim × Option Nat)

/-- The claims that a pass left in the queue, in queue order. -/
def Pass.left (pass : Pass) : List Claim := pass.filterMap fun x => if x.2 = none then some x.1 else none

/-- The claims that a pass granted, each with its new lease id, in the order of the grants. -/
def Pass.grants (pass : Pass) : Grants := pass.filterMap fun x => x.2.map fun id => (x.1, id)

/-- R34: the three conditions, tested at claim `c` against the state as it stands once the pass has gone through `before`: every
line of the claim is free of the leases `kept` and of those granted so far, no older claim that still waits shares a line
with it, and the lease table has a free entry. -/
def GrantableAfter (kept : List Lease) (before : Pass) (c : Claim) : Prop :=
  (∀ e ∈ c.entries, ∀ l ∈ kept ++ before.grants.map grantedLease, coversLine l.entries e.line = false)
    ∧ (∀ d ∈ before.left, sharesLine c.entries d.entries = false) ∧ kept.length + before.grants.length < 16

/-- R33 to R36: what a scan leaves of the leases `kept` and the claims `waiting`. One pass went over the claims in queue order
and granted each exactly where the three conditions held at it; the others wait, in their order. The live leases are those
kept and those of the grants, whose ids follow from the counter in grant order; and no claim is left that a scan could
grant. -/
def Scanned (kept : List Lease) (waiting : List Claim) (grants : Grants) (s t : State) : Prop :=
  (∃ pass : Pass, pass.map (fun x => x.1) = waiting ∧ t.queue = pass.left ∧ grants = pass.grants
      ∧ ∀ before c made after, pass = before ++ (c, made) :: after →
        (made.isSome = true ↔ GrantableAfter kept before c))
    ∧ t.leases.Perm (kept ++ grants.map grantedLease)
    ∧ (grants.map fun g => g.2) = grantIds grants.length (kept.map fun l => l.id) s.leaseCounter
    ∧ t.leaseCounter = (grants.getLast?.map fun g => nextNumber g.2).getD s.leaseCounter
    ∧ NoGrantableLaw t

/-- R35, R44: host `h` received these events, then GRANTED with ticket and new lease id for each of its claims that the scan
granted, in grant order, and nothing else. -/
def ReceivedThenGrants (h : Host) (events : List Event) (grants : Grants) (s t : State) : Prop :=
  Received h (events ++ (grants.filter fun g => g.1.host == h).map fun g => .granted g.1.ticket g.2) s t

/-- R17, R18, R81, R82: lease `l` ended for the cause. It is out of the table and the scan ran. Its lines are parked, each
unfaulted mirror elsewhere of a line parked OUT is faulted, and no other line changed but for its binding by the scan; the
changes of raw level are handed on as those of one event. The target of its offer received OFFER_WITHDRAWN, the holder
LEASE_LOST where the cause sends it, then the holders of the mirrors MIRROR_FAULT, then GRANTED came of the scan. -/
def LeaseEnded (l : Lease) (cause : EndCause) (s t : State) : Prop :=
  ∃ grants, Scanned (s.leases.filter fun m => m.id != l.id) s.queue grants s t
    ∧ (∀ i, t.line i = { (s.afterParking l.entries).line i with
        holder := holderAfter grants i ((s.afterParking l.entries).line i).holder })
    ∧ t.arrivals = s.arrivals ++ (if parkingChanges s l.entries = [] then [] else [parkingChanges s l.entries])
    ∧ ∀ h, ReceivedThenGrants h ((if l.offer.map (fun o => o.target) = some h
          then [.offerWithdrawn l.id cause.targetReason] else [])
        ++ (if l.holder = h then (cause.holderReason.map fun r => Event.leaseLost l.id r).toList else [])
        ++ parkingFaults s l.entries h) grants s t

/-- R114, step 3: the lines after the leases are parked one after another. -/
def State.afterParkings (s : State) (leases : List Lease) : State :=
  leases.foldl (fun u l => u.afterParking l.entries) s

/-- R114, step 3: the changes of raw level handed on as the leases are parked one after another. A line that two of the
parkings move is handed on twice (log entry 22). -/
def parkingsChanges (s : State) : List Lease → List LevelChange
  | [] => []
  | l :: rest => parkingChanges s l.entries ++ parkingsChanges (s.afterParking l.entries) rest

/-- R115: the records that host `h` receives as the leases end one after another: the OFFER_WITHDRAWN HOLDER_GONE of an offer
to `h` and the MIRROR_FAULT records of the lease's parking. -/
def parkingsRecords (h : Host) (s : State) : List Lease → List Event
  | [] => []
  | l :: rest =>
    (if l.offer.map (fun o => o.target) = some h then [.offerWithdrawn l.id .holderGone] else [])
      ++ parkingFaults s l.entries h ++ parkingsRecords h (s.afterParking l.entries) rest

/-- R114, R115, R116, R151: host `n` was torn down: it holds no lease, no claim and no subscription and is the target of
no offer; the leases and claims of other hosts stand, but for offers to `n`, and the scan ran; EQn is `cleared`, and every
other host received OFFER_LAPSED TARGET_GONE for its offers to `n`, then the records of the leases of `n`, then GRANTED. The
leases of `n` were parked one after another, and no line changed but by that and by its binding by the scan. -/
def TornDown (n : Host) (cleared : EventQueue) (s t : State) : Prop :=
  ∃ grants, (∀ m ∈ t.leases, m.holder ≠ n ∧ ∀ o ∈ m.offer, o.target ≠ n)
    ∧ Scanned ((s.leases.filter fun m => m.holder != n).map fun m =>
        if m.offer.map (fun o => o.target) = some n then { m with offer := none } else m)
        (s.queue.filter fun c => c.host != n) grants s t
    ∧ (∀ i, t.subscription n i = none) ∧ (∀ h i, h ≠ n → t.subscription h i = s.subscription h i)
    ∧ (∀ i, t.line i = { (s.afterParkings (s.leasesOf n)).line i with
        holder := holderAfter grants i ((s.afterParkings (s.leasesOf n)).line i).holder })
    ∧ t.arrivals = s.arrivals ++
        (if parkingsChanges s (s.leasesOf n) = [] then [] else [parkingsChanges s (s.leasesOf n)])
    ∧ t.eventQueue n = cleared
    ∧ ∀ h, h ≠ n → ReceivedThenGrants h
        (((s.leases.filter fun m => m.holder == h && m.offer.map (fun o => o.target) == some n).map
            fun m => .offerLapsed m.id .targetGone)
          ++ parkingsRecords h s (s.leasesOf n)) grants s t

end Sys2Proof.Machine
end

