-- ==== Sys2Proof/Certificates/Slice0/Obligations.lean ====
section
/-! DEFINITION. The statements for the provers. Each is about `exec` or `step` over every state that meets its hypotheses;
a witness for the hypotheses of each stands in Sys2Proof/Tests/Slice0.lean. -/

open Sys2Proof Sys2Proof.Machine

/-! ### The queue of commands -/

/-- A step takes the command at the front of the queue with the queue's rest; on an empty queue the block idles (log
entry 4). -/
def Obligations.StepTakesTheFrontCommand : Prop :=
  (∀ (s : State) (c : Instr) (rest : List Instr), s.pending = c :: rest → step s = exec c { s with pending := rest })
    ∧ ∀ s : State, s.pending = [] → step s = .next s

/-- Every command and event has a next state, in every state of the part: the model raises no fault and no refusal. It
reaches everything but the queue of commands that wait. While device reset is in force none is taken but the board's changes,
another device reset and its end (R67, R155, R189). -/
def Obligations.EveryCommandHasANextStateAndLeavesTheQueue : Prop :=
  ∀ (i : Instr) (s : State), (∃ t, exec i s = .next t ∧ t.pending = s.pending)
    ∧ (s.inReset = true → (∀ c, i ≠ .deviceReset c) → (∀ x, i ≠ .deviceResetEnd x) →
      (∀ l e, i ≠ .externalStateChange l e) → exec i s = .next s)

/-- R105, R109, R116, R156: the supervisor port and the bus address change only at a device reset and at its end, and an
allowed-host set only at a RESERVE and at a device reset. -/
def Obligations.OnlyTheirEventsChangeSupervision : Prop :=
  ∀ (i : Instr) (s t : State), exec i s = .next t → (∀ c, i ≠ .deviceReset c) →
    ((∀ x, i ≠ .deviceResetEnd x) → t.supervisor = s.supervisor ∧ t.busAddress = s.busAddress)
      ∧ ((∀ p, i ≠ .reserve p) → t.allowed = s.allowed)

/-! ### Laws that every step keeps -/

/-- R27, R45, R86, R104, R120, R135, R154, R179: what device reset leaves in the tables, the counters, the lines, the input
monitor, the event queues and the ports; and the laws hold there. (That the straps are not sampled yet and the board's lines
stand OPEN is the model's choice: log entries 2 and 3.) -/
def Obligations.ResetValuesMeetTheLaws : Prop :=
  LeaseTableLaw State.reset ∧ DisjointLaw State.reset ∧ WaitQueueLaw State.reset ∧ OwnLineLaw State.reset
    ∧ ReservationLaw State.reset ∧ NoGrantableLaw State.reset ∧ BindingLaw State.reset ∧ FreeLineLaw State.reset
    ∧ RawLevelLaw State.reset ∧ LineRangeLaw State.reset ∧ MirrorLaw State.reset ∧ MirrorFollowsLaw State.reset
    ∧ ArrivalLaw State.reset ∧ StartUpLaw State.reset ∧ EventQueueLaw State.reset ∧ PortLaw State.reset
    ∧ ResetLaw State.reset
    ∧ State.reset.leases = [] ∧ State.reset.leaseCounter = 1 ∧ State.reset.queue = [] ∧ State.reset.ticketCounter = 1
    ∧ State.reset.lastServed = 3 ∧ State.reset.timestamp = 0 ∧ State.reset.arrivals = [] ∧ State.reset.reports = []
    ∧ State.reset.startUp = []
    ∧ (∀ i : Line, State.reset.allowedOn i = 0b1111#4 ∧ State.reset.input i = ⟨false, false, false, false, false⟩
        ∧ State.reset.line i = ⟨.input, .hiz, .noPull, false, .plain, none, 0, false, false, false⟩
        ∧ ∀ h, State.reset.subscription h i = none)
    ∧ ∀ h : Host, State.reset.eventQueue h = ⟨[], 0, 255, 0, true, false⟩ ∧ (State.reset.port h).slot = .empty
        ∧ (State.reset.port h).repeatGuard = none ∧ (State.reset.port h).txn = .waiting
        ∧ (State.reset.port h).ticked = false ∧ (State.reset.port h).crc = none
        ∧ (State.reset.port h).buffer = [] ∧ (State.reset.port h).image = none
        ∧ (State.reset.port h).timer.running = false ∧ (State.reset.port h).ack = .absent
        ∧ (State.reset.port h).sda = .released

/-- R1, R2, R3, R4: the lease table stays within its 16 entries, its ids distinct and in order, each lease in its ranges, and
no line in two leases. (The grants of the scan come from the wait queue, so its law is a premise.) -/
def Obligations.StepKeepsLeaseTable : Prop :=
  ∀ s t : State, step s = .next t → LeaseTableLaw s → WaitQueueLaw s → DisjointLaw s →
    LeaseTableLaw t ∧ DisjointLaw t

/-- R28 to R31, R43: the wait queue stays within 8 claims, 2 of a host, its tickets distinct, each claim in its ranges; no
waiting claim shares a line with a lease or with another waiting claim of its host; and the host of every waiting claim
stays allowed on every line of the claim. (That lease ids are distinct is a premise: an ACCEPT finds its lease by its id.) -/
def Obligations.StepKeepsWaitQueue : Prop :=
  ∀ s t : State, step s = .next t → WaitQueueLaw s → OwnLineLaw s → LeaseTableLaw s →
    WaitQueueLaw t ∧ OwnLineLaw t ∧ (ReservationLaw s → ReservationLaw t)

/-- R36: at device reset, and after every step, no claim stays in the wait queue while every one of its lines is free, no
older waiting claim shares a line with it, and the lease table has a free entry. -/
def Obligations.StepLeavesNoGrantableClaim : Prop :=
  NoGrantableLaw State.reset ∧ ∀ s t : State, step s = .next t → NoGrantableLaw s →
    ∀ (older younger : List Claim) (c : Claim), t.queue = older ++ c :: younger →
      (∀ e ∈ c.entries, ∀ l ∈ t.leases, coversLine l.entries e.line = false) →
      (∀ d ∈ older, sharesLine c.entries d.entries = false) → 16 ≤ t.leases.length

/-- R68: a line is bound to a lease and its holder exactly while the lease is live and its set contains the line. -/
def Obligations.StepKeepsBindings : Prop :=
  ∀ s t : State, step s = .next t → LeaseTableLaw s → WaitQueueLaw s → DisjointLaw s → BindingLaw s → BindingLaw t

/-- R83: at device reset and after every step a line has a pulse, a mirror or a set mismatch flag only while it is held, and
a free line is PLAIN; and a line that is free keeps the settings it has until a device reset, whatever the step. (That the
free line's binding agrees with the lease table is R68, a premise.) -/
def Obligations.StepKeepsFreeLinesPlain : Prop :=
  FreeLineLaw State.reset ∧ ∀ s t : State, step s = .next t → FreeLineLaw s →
    FreeLineLaw t ∧ (BindingLaw s → s.inReset = false → t.inReset = false →
      ∀ i : Line, (s.line i).holder = none → (t.line i).settings = (s.line i).settings)

/-- R61, R65, R66, R67, R95, R99: every line's raw level is the one R65 gives, and its keeper level equals it; the settle
stays within 4 ms, and a pulsing line is OUT at its pulse level. -/
def Obligations.StepKeepsLevelsAndRanges : Prop :=
  ∀ s t : State, step s = .next t → (RawLevelLaw s → RawLevelLaw t) ∧ (LineRangeLaw s → LineRangeLaw t)

/-- R87, R88, R90, R93: every mirror is OUT and every unfaulted mirror's source is IN, so that mirror chains never form; and
an unfaulted mirror's output level is its source's filtered level exclusive-or its invert once every report of the source
is taken. -/
def Obligations.StepKeepsMirrors : Prop :=
  ∀ s t : State, step s = .next t → (MirrorLaw s → MirrorLaw t) ∧ (MirrorFollowsLaw s → MirrorFollowsLaw t)

/-- R121, R125, R67, R133: each arrival carries the opposite of the seen level it finds, and once all arrivals of a line are
taken its seen level equals its raw level; while an arrival of the end of device reset is in flight, no host holds a
subscription (log entry 25). -/
def Obligations.StepKeepsArrivalsAlternating : Prop :=
  ∀ s t : State, step s = .next t →
    (ArrivalLaw s → ArrivalLaw t) ∧ (ResetLaw s → StartUpLaw s → StartUpLaw t)

/-- R138, R141, R149: at most 32 records with consecutive seqs, a lost count only on a full queue, and ATNn# asserted
exactly when attention is on and a record waits. -/
def Obligations.StepKeepsEventQueues : Prop :=
  ∀ s t : State, step s = .next t → EventQueueLaw s → EventQueueLaw t

/-- R155, R158, R164, R165, R176, R189: while device reset is in force every block holds its reset values; the guard is
present exactly while the slot is READY; a PENDING slot's frame stays whole in the receive buffer and the port is not in RX;
a tick is noted only of a command that waits (R70, R123; log entry 24); the transaction state, buffer, CRC register, image,
bus timer and ACK agree, and SDA is low only for an ACK and for the 0 bits of a sent byte (log entry 13). -/
def Obligations.StepKeepsPortsAndResetValues : Prop :=
  ∀ s t : State, step s = .next t → ResetLaw s → ResetLaw t ∧ (PortLaw s → PortLaw t)

/-! ### Device reset and ticks -/

/-- R189: power-on and a low pulse of 10 µs or more put every block into its reset values, whatever the state, leaving the
board's lines; a pulse shorter than 1 µs has no effect; one between does one of the two (the choice is a free value:
log entry 1). -/
def Obligations.DeviceResetByPulseLength : Prop :=
  ∀ (s : State) (ns : Nat),
    (∃ t, exec (.deviceReset .powerOn) s = .next t ∧ t = s.enterReset)
      ∧ (10000 ≤ ns → exec (.deviceReset (.rstLow ns)) s = .next s.enterReset)
      ∧ (ns < 1000 → exec (.deviceReset (.rstLow ns)) s = .next s)
      ∧ (1000 ≤ ns → ns < 10000 → ∃ t, exec (.deviceReset (.rstLow ns)) s = .next t
          ∧ (t = { s.enterReset with freeCount := t.freeCount } ∨ t = { s with freeCount := t.freeCount }))
      ∧ s.enterReset = { State.reset with
          external := s.external, freeCount := s.freeCount, pending := s.pending }

/-- R67, R105, R156: as device reset ends the supervisor port and the bus address are taken from the straps, and every line
that the board holds HIGH takes raw and keeper level 1 and hands on one arrival. The rules give the lines no order: each
arrival stands in a list of its own, so that any may be taken first (log entry 23). Where no device reset is in force nothing
ends (log entry 5). -/
def Obligations.DeviceResetEndSamplesStrapsAndLines : Prop :=
  ∀ (s : State) (x : Straps), (s.inReset = false → exec (.deviceResetEnd x) s = .next s)
    ∧ (s.inReset = true → ResetLaw s → ∃ t, exec (.deviceResetEnd x) s = .next t
      ∧ t = { s with
          inReset := false, supervisor := t.supervisor, busAddress := t.busAddress, lines := t.lines,
          arrivals := t.arrivals, startUp := t.startUp }
      ∧ t.supervisor = (if x.supen then some x.sup else none)
      ∧ t.busAddress.toNat = 0x38 + x.ads.val
      ∧ (∀ i : Line, t.line i = { LineRec.reset with
          raw := decide (s.external[i] = External.high), keeper := decide (s.external[i] = External.high) })
      ∧ t.startUp = (allLines.filter fun i => decide (s.external[i] = External.high))
      ∧ t.arrivals = s.arrivals ++ t.startUp.map fun i => [⟨i, true⟩])

/-- R20, R38, R49, R96, R99, R100, R139, R176: at a millisecond tick every running timer above 0 counts down by one and the
timestamp up by one; then a held line whose settle has passed and whose filtered level differs from its driven value takes a
mismatch flag, once, and its holder MISMATCH. (The order of the MISMATCH records of one host is open; log entry 8.) Each
line command that waits lets the tick pass, and while one has let a tick pass no second is taken (R70; log entry 24). A bus
timeout that has come is taken before the tick (R176; log entry 14). -/
def Obligations.MillisecondTickCountsAndTests : Prop :=
  ∀ (s : State) (order : List Line), s.inReset = false →
    (s.overdue .lineMatrix = true → exec (.millisecondTick order) s = .next s)
    ∧ (s.overdue .lineMatrix = false → ∃ t, exec (.millisecondTick order) s = .next t
      ∧ t = { s with
          leases := t.leases, queue := t.queue, lines := t.lines, ports := t.ports, queues := t.queues,
          timestamp := s.timestamp + 1 }
      ∧ t.leases = s.leases.map (fun l => { l with
          remaining := l.remaining.map fun r => r - 1
          offer := l.offer.map fun o => { o with remaining := o.remaining - 1 } })
      ∧ t.queue = s.queue.map (fun c => { c with remaining := c.remaining - 1 })
      ∧ (∀ p : Host, (s.port p).timedOut = false → t.port p = { s.port p with
          timer := { (s.port p).timer with
            remaining := (s.port p).timer.remaining - (if (s.port p).timer.running then 1 else 0) }
          ticked := (s.port p).ticked || (s.port p).waitsFor .lineMatrix })
      ∧ (∀ p : Host, (s.port p).timedOut = true → ∃ u, exec (.busTimeout p) s = .next u
          ∧ t.port p = { u.port p with ticked := (s.port p).ticked || (s.port p).waitsFor .lineMatrix })
      ∧ (∀ i : Line, t.line i = { s.line i with
          settle := (s.line i).settle - 1
          function := match (s.line i).function with
            | .pulse level revert remaining => .pulse level revert (remaining - 1)
            | .plain => .plain
            | .mirror source invert fault => .mirror source invert fault
          mismatch := (s.line i).mismatch || (({ s.line i with settle := (s.line i).settle - 1 } : LineRec).contested
            (s.input i).filtered).isSome })
      ∧ ∀ h : Host, ∃ events, Received h events s t
          ∧ events.Perm (allLines.filterMap fun i =>
              if (s.line i).heldBy h then
                (({ s.line i with settle := (s.line i).settle - 1 } : LineRec).contested (s.input i).filtered).map
                  (fun d => Event.mismatch i d)
              else none))

/-- R99, R100: the settle of a line reaches 0 at a millisecond tick, and at that tick the line is tested: exactly when it is
held, its mismatch flag is clear and it drives a value that its filtered level differs from, the flag is set and its holder
receives MISMATCH with the driven value. The event of the table's row is that tick, with this line's test the first (log entry
9); a settle that does not reach 0 expires nowhere (log entry 5). -/
def Obligations.SettleExpiryTestsTheLine : Prop :=
  ∀ (s : State) (i : Line), s.inReset = false →
    (((s.line i).settle ≠ 1 ∨ s.overdue .lineMatrix = true) → exec (.settleExpiry i) s = .next s)
    ∧ ((s.line i).settle = 1 → s.overdue .lineMatrix = false →
      exec (.settleExpiry i) s = exec (.millisecondTick [i]) s
      ∧ ∃ t, exec (.settleExpiry i) s = .next t ∧ (t.line i).settle = 0
        ∧ (∀ (b : Binding) (d : Level), (s.line i).holder = some b → (s.line i).mismatch = false →
            (s.line i).driven = some d → (s.input i).filtered ≠ d →
            (t.line i).mismatch = true ∧ ∃ rest, Received b.host (.mismatch i d :: rest) s t)
        ∧ (((s.line i).holder = none ∨ (s.line i).mismatch = true ∨ (s.line i).driven = none
              ∨ (s.line i).driven = some (s.input i).filtered) →
            (t.line i).mismatch = (s.line i).mismatch
              ∧ ∀ h, ∃ events, Received h events s t ∧ ∀ d, Event.mismatch i d ∉ events))

/-! ### Leases -/

/-- R4, R31: the id a grant takes is the first from the lease id counter on, with 255 followed by 1, that no live lease
has; the ticket a placement takes likewise among waiting claims. -/
def Obligations.NumbersAreTheFirstNotInUse : Prop :=
  ∀ s : State, 1 ≤ s.leaseCounter → s.leaseCounter ≤ 255 → 1 ≤ s.ticketCounter → s.ticketCounter ≤ 255 →
    (s.leases.length < 16 → ∃ k, k ≤ s.leases.length ∧ s.nextLeaseId = nextNumber^[k] s.leaseCounter
        ∧ (∀ l ∈ s.leases, l.id ≠ s.nextLeaseId) ∧ (∀ j < k, ∃ l ∈ s.leases, l.id = nextNumber^[j] s.leaseCounter))
      ∧ (s.queue.length < 8 → ∃ k, k ≤ s.queue.length ∧ s.nextTicket = nextNumber^[k] s.ticketCounter
        ∧ (∀ c ∈ s.queue, c.ticket ≠ s.nextTicket) ∧ (∀ j < k, ∃ c ∈ s.queue, c.ticket = nextNumber^[j] s.ticketCounter))

/-- R6: the arbiter serves the port that presents a request and comes first after the last-served port, counting round the
four ports; it serves none exactly when none presents. -/
def Obligations.ArbiterServesPortsInTurn : Prop :=
  ∀ s : State,
    (∀ p, s.arbiterPick = some p → s.presents p = true
        ∧ ∀ q, s.presents q = true → (p - (s.lastServed + 1)).val ≤ (q - (s.lastServed + 1)).val)
      ∧ (s.arbiterPick = none ↔ ∀ q, s.presents q = false)

/-- R14: a claim on lines that are allowed, free and in no waiting claim is granted while the table has an entry: a new
lease with the next id, every line bound to it with all its settings kept, no record, no scan. -/
def Obligations.ClaimGrantsFreeLines : Prop :=
  ∀ (s : State) (p : Host) (tag : Byte) (es : List LineEntry), Served s p .claim tag →
    claimEntries ((s.port p).params.drop 3) = some es →
    (∀ e ∈ es, HostSet.has (s.allowedOn e.line) p = true
      ∧ (∀ l ∈ s.leases, coversLine l.entries e.line = false) ∧ ∀ c ∈ s.queue, coversLine c.entries e.line = false) →
    s.leases.length < 16 →
    ∃ t, exec (.claim p) s = .next t
      ∧ t = { s with
          leases := t.leases, leaseCounter := nextNumber s.nextLeaseId, lines := t.lines, ports := t.ports,
          lastServed := p }
      ∧ t.leases.Perm (⟨s.nextLeaseId, p, es, s.arg p 0, if s.arg p 0 = 0 then none else some (s.arg p 0 * 20), none⟩
          :: s.leases)
      ∧ (∀ i : Line, t.line i = if coversLine es i then { s.line i with holder := some ⟨s.nextLeaseId, p⟩ } else s.line i)
      ∧ Answered p tag .claim .ok [byteOf s.nextLeaseId] s t

/-- R15, R31: a claim on allowed lines that are not its caller's own, of which one is held or waited for or for which the
table is full, is placed at the tail of the queue when it may wait and there is room. -/
def Obligations.ClaimWaitsAtTheTail : Prop :=
  ∀ (s : State) (p : Host) (tag : Byte) (es : List LineEntry), Served s p .claim tag →
    claimEntries ((s.port p).params.drop 3) = some es →
    (∀ e ∈ es, HostSet.has (s.allowedOn e.line) p = true) →
    (∀ l ∈ s.leases, l.holder = p → ∀ e ∈ es, coversLine l.entries e.line = false) →
    (∀ c ∈ s.queue, c.host = p → ∀ e ∈ es, coversLine c.entries e.line = false) →
    (16 ≤ s.leases.length ∨ ∃ e ∈ es, (∃ l ∈ s.leases, coversLine l.entries e.line = true)
      ∨ ∃ c ∈ s.queue, coversLine c.entries e.line = true) →
    s.arg p 1 ≠ 0 → s.queue.length < 8 → (s.queue.filter fun c => c.host == p).length < 2 →
    ∃ t, exec (.claim p) s = .next t
      ∧ t = { s with queue := t.queue, ticketCounter := nextNumber s.nextTicket, ports := t.ports, lastServed := p }
      ∧ t.queue = s.queue ++ [⟨s.nextTicket, p, es, s.arg p 0, s.arg p 1 * 20⟩]
      ∧ Answered p tag .claim .queued [byteOf s.nextTicket] s t

/-- R11, R12, R13: the refusals of a claim, in the order of the checks: form, reservation, own lines, and then HELD,
TABLE_FULL or QUEUE_FULL for a claim that is not grantable. -/
def Obligations.ClaimRefusalsInOrder : Prop :=
  ∀ (s : State) (p : Host) (tag : Byte), Served s p .claim tag →
    (claimEntries ((s.port p).params.drop 3) = none →
      ∃ t, exec (.claim p) s = .next t ∧ Answered p tag .claim .badParam [] s t)
    ∧ ∀ es, claimEntries ((s.port p).params.drop 3) = some es →
      ((∃ e ∈ es, HostSet.has (s.allowedOn e.line) p = false) →
        ∃ t, exec (.claim p) s = .next t ∧ Answered p tag .claim .denied [] s t)
      ∧ ((∀ e ∈ es, HostSet.has (s.allowedOn e.line) p = true) →
        ((∃ e ∈ es, (∃ l ∈ s.leases, l.holder = p ∧ coversLine l.entries e.line = true)
            ∨ ∃ c ∈ s.queue, c.host = p ∧ coversLine c.entries e.line = true) →
          ∃ t, exec (.claim p) s = .next t ∧ Answered p tag .claim .ownLine [] s t)
        ∧ ((∀ e ∈ es, (∀ l ∈ s.leases, l.holder = p → coversLine l.entries e.line = false)
            ∧ ∀ c ∈ s.queue, c.host = p → coversLine c.entries e.line = false) →
          ((∃ e ∈ es, (∃ l ∈ s.leases, coversLine l.entries e.line = true)
              ∨ ∃ c ∈ s.queue, coversLine c.entries e.line = true) → s.arg p 1 = 0 →
            ∃ t, exec (.claim p) s = .next t ∧ Answered p tag .claim .held [] s t)
          ∧ ((∀ e ∈ es, (∀ l ∈ s.leases, coversLine l.entries e.line = false)
              ∧ ∀ c ∈ s.queue, coversLine c.entries e.line = false) → 16 ≤ s.leases.length → s.arg p 1 = 0 →
            ∃ t, exec (.claim p) s = .next t ∧ Answered p tag .claim .tableFull [] s t)
          ∧ ((16 ≤ s.leases.length ∨ ∃ e ∈ es, (∃ l ∈ s.leases, coversLine l.entries e.line = true)
              ∨ ∃ c ∈ s.queue, coversLine c.entries e.line = true) → s.arg p 1 ≠ 0 →
            (8 ≤ s.queue.length ∨ 2 ≤ (s.queue.filter fun c => c.host == p).length) →
            ∃ t, exec (.claim p) s = .next t ∧ Answered p tag .claim .queueFull [] s t)))

/-- R41, R34, R35: the caller's waiting claim with the ticket leaves the queue with no record of its own, and the scan runs:
every claim it grants has its lease, its lines bound and its GRANTED, and every other stays. Ticket 0,
or a ticket that no waiting claim of the caller has, is answered NO_CLAIM and nothing else changes. -/
def Obligations.CancelClaimRemovesTheCallersClaim : Prop :=
  ∀ (s : State) (p : Host) (tag : Byte), Served s p .cancelClaim tag → WaitQueueLaw s →
    (∀ c ∈ s.queue, c.ticket = s.arg p 0 → c.host = p →
      ∃ t grants, exec (.cancelClaim p) s = .next t
        ∧ t = { s with
            leases := t.leases, leaseCounter := t.leaseCounter, queue := t.queue, lines := t.lines, queues := t.queues,
            ports := t.ports, lastServed := p }
        ∧ Scanned s.leases (s.queue.filter fun d => d.ticket != c.ticket) grants s t
        ∧ (∀ i : Line, t.line i = { s.line i with holder := holderAfter grants i (s.line i).holder })
        ∧ (∀ h, ReceivedThenGrants h [] grants s t) ∧ Answered p tag .cancelClaim .ok [] s t)
    ∧ ((s.arg p 0 = 0 ∨ ∀ c ∈ s.queue, c.ticket = s.arg p 0 → c.host ≠ p) →
      ∃ t, exec (.cancelClaim p) s = .next t ∧ t = { s with ports := t.ports, lastServed := p }
        ∧ Answered p tag .cancelClaim .noClaim [] s t)

/-- R39, R34, R35: a due lapse removes its claim, wherever it stands in the queue, with CLAIM_LAPSED TIMEOUT to its host
before any GRANTED of the scan that follows; a lapse that is not due, or whose claim has left the queue, is not taken. -/
def Obligations.WaitLapseRemovesTheClaim : Prop :=
  ∀ s : State, s.inReset = false → WaitQueueLaw s →
    (∀ c ∈ s.queue, c.remaining = 0 →
      ∃ t grants, exec (.waitLapse c.ticket) s = .next t
        ∧ t = { s with
            leases := t.leases, leaseCounter := t.leaseCounter, queue := t.queue, lines := t.lines, queues := t.queues }
        ∧ Scanned s.leases (s.queue.filter fun d => d.ticket != c.ticket) grants s t
        ∧ (∀ i : Line, t.line i = { s.line i with holder := holderAfter grants i (s.line i).holder })
        ∧ ∀ h, ReceivedThenGrants h (if h = c.host then [.claimLapsed c.ticket .timeout] else []) grants s t)
    ∧ ∀ ticket, (∀ c ∈ s.queue, c.ticket = ticket → c.remaining ≠ 0) → exec (.waitLapse ticket) s = .next s

/-- R16, R17, R18, R23, R107, R34, R35: RELEASE by the holder, REVOKE by the supervisor and a due renew expiry each end a
live lease by the lease-end procedure with their cause, and the scan runs. The MIRROR_FAULT records and the arrivals of the
mirrors of several parked lines come source by source, ascending, which is the model's choice (log entry 16), as it is that
R81 alone gives settle, raw and keeper level of a line parked in a pulse (log entry 26). REVOKE of an id that names no live lease is answered NO_LEASE, and an expiry of an id that names none, or that is not due, is not taken. -/
def Obligations.ReleaseRevokeAndExpiryEndTheLease : Prop :=
  ∀ (s : State) (p : Host) (tag : Byte), s.inReset = false → LeaseTableLaw s →
    (∀ l ∈ s.leases,
      (Served s p .release tag → l.id = s.arg p 0 → l.holder = p →
        ∃ t, exec (.release p) s = .next t
          ∧ t = { s with
              leases := t.leases, leaseCounter := t.leaseCounter, queue := t.queue, lines := t.lines, queues := t.queues,
              arrivals := t.arrivals, ports := t.ports, lastServed := p }
          ∧ LeaseEnded l .release s t ∧ Answered p tag .release .ok [] s t)
      ∧ (Served s p .revoke tag → s.supervisor = some p → l.id = s.arg p 0 →
        ∃ t, exec (.revoke p) s = .next t
          ∧ t = { s with
              leases := t.leases, leaseCounter := t.leaseCounter, queue := t.queue, lines := t.lines, queues := t.queues,
              arrivals := t.arrivals, ports := t.ports, lastServed := p }
          ∧ LeaseEnded l .revoke s t ∧ Answered p tag .revoke .ok [] s t)
      ∧ (l.remaining = some 0 →
        ∃ t, exec (.renewExpiry l.id) s = .next t
          ∧ t = { s with
              leases := t.leases, leaseCounter := t.leaseCounter, queue := t.queue, lines := t.lines, queues := t.queues,
              arrivals := t.arrivals }
          ∧ LeaseEnded l .expiry s t))
    ∧ (Served s p .revoke tag → s.supervisor = some p → (∀ m ∈ s.leases, m.id ≠ s.arg p 0) →
      ∃ t, exec (.revoke p) s = .next t ∧ t = { s with ports := t.ports, lastServed := p }
        ∧ Answered p tag .revoke .noLease [] s t)
    ∧ ∀ id, (∀ m ∈ s.leases, m.id = id → m.remaining ≠ some 0) → exec (.renewExpiry id) s = .next s

/-- R21: RENEW by the holder restarts the lease's renew timer, where it has one, which cancels a due expiry. -/
def Obligations.RenewRestartsTheTimer : Prop :=
  ∀ (s : State) (p : Host) (tag : Byte) (l : Lease), Served s p .renew tag → LeaseTableLaw s →
    l ∈ s.leases → l.id = s.arg p 0 → l.holder = p →
    ∃ t, exec (.renew p) s = .next t ∧ t = { s with leases := t.leases, ports := t.ports, lastServed := p }
      ∧ t.leases = s.leases.map (fun m => if m.id = l.id then
          { m with remaining := if l.interval = 0 then none else some (l.interval * 20) } else m)
      ∧ Answered p tag .renew .ok [] s t

/-- R22: RENEW_ALL restarts the renew timer of every lease of the caller that has one and answers their number. -/
def Obligations.RenewAllRenewsEveryLease : Prop :=
  ∀ (s : State) (p : Host) (tag : Byte), Served s p .renewAll tag →
    ∃ t, exec (.renewAll p) s = .next t ∧ t = { s with leases := t.leases, ports := t.ports, lastServed := p }
      ∧ t.leases = s.leases.map (fun m => if m.holder = p then
          { m with remaining := if m.interval = 0 then none else some (m.interval * 20) } else m)
      ∧ Answered p tag .renewAll .ok [byteOf (s.leases.filter fun m => m.holder == p).length] s t

/-- R25, R26, R186: QUERY_LEASE answers any host with the lease's record, or for id 0 with the listing of the table, and
changes nothing. -/
def Obligations.QueryLeaseReportsTheRecord : Prop :=
  ∀ (s : State) (p : Host) (tag : Byte), Served s p .queryLease tag → LeaseTableLaw s →
    (s.arg p 0 = 0 →
      ∃ t, exec (.queryLease p) s = .next t ∧ t = { s with ports := t.ports, lastServed := p }
        ∧ Answered p tag .queryLease .ok (byteOf s.leases.length :: s.leases.map fun l => byteOf l.id) s t)
    ∧ (∀ l ∈ s.leases, l.id = s.arg p 0 →
      ∃ t, exec (.queryLease p) s = .next t ∧ t = { s with ports := t.ports, lastServed := p }
        ∧ Answered p tag .queryLease .ok
            ([byteOf l.id, byteOf l.holder.val, if l.offer.isSome then 1 else 0, byteOf l.interval,
              byteOf (l.remaining.getD 0xFFFF), byteOf (l.remaining.getD 0xFFFF / 256),
              (l.offer.map fun o => byteOf o.target.val).getD 0xFF, (l.offer.map fun o => byteOf o.remaining).getD 0xFF,
              byteOf l.entries.length] ++ l.entries.map entryByte) s t)
    ∧ (s.arg p 0 ≠ 0 → (∀ l ∈ s.leases, l.id ≠ s.arg p 0) →
      ∃ t, exec (.queryLease p) s = .next t ∧ t = { s with ports := t.ports, lastServed := p }
        ∧ Answered p tag .queryLease .noLease [] s t)

/-- R9: RELEASE, RENEW and OFFER of an id that names no live lease are refused with NO_LEASE, and of a lease another host
holds with NOT_HOLDER; nothing else changes. -/
def Obligations.HolderCheckRefusesOtherHosts : Prop :=
  ∀ (s : State) (p : Host) (tag : Byte) (i : Instr) (cmd : Cmd),
    (i = .release p ∧ cmd = .release ∨ i = .renew p ∧ cmd = .renew ∨ i = .offer p ∧ cmd = .offer) →
    Served s p cmd tag → LeaseTableLaw s →
    ((∀ l ∈ s.leases, l.id ≠ s.arg p 0) →
      ∃ t, exec i s = .next t ∧ t = { s with ports := t.ports, lastServed := p }
        ∧ Answered p tag cmd .noLease [] s t)
    ∧ (∀ l ∈ s.leases, l.id = s.arg p 0 → l.holder ≠ p →
      ∃ t, exec i s = .next t ∧ t = { s with ports := t.ports, lastServed := p }
        ∧ Answered p tag cmd .notHolder [] s t)

/-! ### Offers -/

/-- R47, R48: an OFFER of the caller's own lease is judged in order: a target that is the caller or no host is refused with
BAD_PARAM, an OFFERED lease with BUSY, a target that some line excludes with DENIED. Otherwise the lease becomes OFFERED
for 200 ms and the target receives OFFERED. -/
def Obligations.OfferIsJudgedAndMade : Prop :=
  ∀ (s : State) (p : Host) (tag : Byte) (l : Lease), Served s p .offer tag → LeaseTableLaw s →
    l ∈ s.leases → l.id = s.arg p 0 → l.holder = p →
    ((3 < s.arg p 1 ∨ s.arg p 1 = p.val) →
      ∃ t, exec (.offer p) s = .next t ∧ t = { s with ports := t.ports, lastServed := p }
        ∧ Answered p tag .offer .badParam [] s t)
    ∧ ∀ target : Host, s.arg p 1 = target.val → target ≠ p →
      (l.offer ≠ none →
        ∃ t, exec (.offer p) s = .next t ∧ t = { s with ports := t.ports, lastServed := p }
          ∧ Answered p tag .offer .busy [] s t)
      ∧ (l.offer = none → (∃ e ∈ l.entries, HostSet.has (s.allowedOn e.line) target = false) →
        ∃ t, exec (.offer p) s = .next t ∧ t = { s with ports := t.ports, lastServed := p }
          ∧ Answered p tag .offer .denied [] s t)
      ∧ (l.offer = none → (∀ e ∈ l.entries, HostSet.has (s.allowedOn e.line) target = true) →
        ∃ t, exec (.offer p) s = .next t
          ∧ t = { s with leases := t.leases, queues := t.queues, ports := t.ports, lastServed := p }
          ∧ t.leases = s.leases.map (fun m => if m.id = l.id then { m with offer := some ⟨target, 200⟩ } else m)
          ∧ Received target [.offered l.id p l.entries.length] s t
          ∧ (∀ h, h ≠ target → t.eventQueue h = s.eventQueue h) ∧ Answered p tag .offer .ok [] s t)

/-- R50: ACCEPT of id 0, or of an id that names no live lease offered to the caller, is refused with NO_OFFER, and of a lease
of which some line now excludes the caller with DENIED, after which the offer stands; otherwise it is carried out. -/
def Obligations.AcceptIsJudged : Prop :=
  ∀ (s : State) (p : Host) (tag : Byte), Served s p .accept tag → LeaseTableLaw s →
    ((s.arg p 0 = 0 ∨ ∀ l ∈ s.leases, l.id = s.arg p 0 → l.offer.map (fun o => o.target) ≠ some p) →
      ∃ t, exec (.accept p) s = .next t ∧ t = { s with ports := t.ports, lastServed := p }
        ∧ Answered p tag .accept .noOffer [] s t)
    ∧ ∀ l ∈ s.leases, l.id = s.arg p 0 → l.offer.map (fun o => o.target) = some p →
      ((∃ e ∈ l.entries, HostSet.has (s.allowedOn e.line) p = false) →
        ∃ t, exec (.accept p) s = .next t ∧ t = { s with ports := t.ports, lastServed := p }
          ∧ Answered p tag .accept .denied [] s t)
      ∧ ((∀ e ∈ l.entries, HostSet.has (s.allowedOn e.line) p = true) →
        ∃ t, exec (.accept p) s = .next t ∧ Answered p tag .accept .ok [] s t)

/-- R51, R52, R42: ACCEPT by the target passes the lease to it: the holder changes, the renew timer restarts, every line of
the lease is rebound with nothing else of any line changed, the previous holder receives TRANSFERRED, the target's own
waiting claims on the lease's lines are removed with CLAIM_LAPSED SUPERSEDED, and the scan runs if one was (R34, R35); if none
was, every claim stays and none is granted. -/
def Obligations.AcceptTransfersTheLease : Prop :=
  ∀ (s : State) (p : Host) (tag : Byte) (l : Lease) (o : Offer), Served s p .accept tag → LeaseTableLaw s →
    l ∈ s.leases → l.id = s.arg p 0 → l.offer = some o → o.target = p →
    (∀ e ∈ l.entries, HostSet.has (s.allowedOn e.line) p = true) →
    ∃ t grants, exec (.accept p) s = .next t
      ∧ t = { s with
          leases := t.leases, leaseCounter := t.leaseCounter, queue := t.queue, lines := t.lines, queues := t.queues,
          ports := t.ports, lastServed := p }
      ∧ ((∃ c ∈ s.queue, c.host = p ∧ sharesLine c.entries l.entries = true) →
          Scanned (s.leases.map fun m => if m.id = l.id then { l with
              holder := p, offer := none, remaining := if l.interval = 0 then none else some (l.interval * 20) } else m)
            (s.queue.filter fun c => !(c.host == p && sharesLine c.entries l.entries)) grants s t)
      ∧ ((∀ c ∈ s.queue, c.host = p → sharesLine c.entries l.entries = false) →
          grants = [] ∧ t.queue = s.queue ∧ t.leaseCounter = s.leaseCounter
            ∧ t.leases = s.leases.map fun m => if m.id = l.id then { l with
                holder := p, offer := none, remaining := if l.interval = 0 then none else some (l.interval * 20) } else m)
      ∧ (∀ i : Line, t.line i = { s.line i with
          holder := holderAfter grants i (if coversLine l.entries i then
            (s.line i).holder.map fun b => { b with host := p } else (s.line i).holder) })
      ∧ (∀ h, ReceivedThenGrants h ((if h = l.holder then [.transferred l.id p] else [])
          ++ (if h = p then (s.queue.filter fun c => c.host == p && sharesLine c.entries l.entries).map
                fun c => Event.claimLapsed c.ticket .superseded else [])) grants s t)
      ∧ Answered p tag .accept .ok [] s t

/-- R53: DECLINE of id 0, or of an id that names no live lease offered to the caller, is answered NO_OFFER and changes nothing
else; DECLINE by the target returns the lease to ACTIVE under its holder, who receives OFFER_LAPSED DECLINED, and no other
host receives a record. -/
def Obligations.DeclineReturnsTheLease : Prop :=
  ∀ (s : State) (p : Host) (tag : Byte), Served s p .decline tag → LeaseTableLaw s →
    ((s.arg p 0 = 0 ∨ ∀ l ∈ s.leases, l.id = s.arg p 0 → l.offer.map (fun o => o.target) ≠ some p) →
      ∃ t, exec (.decline p) s = .next t ∧ t = { s with ports := t.ports, lastServed := p }
        ∧ Answered p tag .decline .noOffer [] s t)
    ∧ ∀ l ∈ s.leases, l.id = s.arg p 0 → l.offer.map (fun o => o.target) = some p →
      ∃ t, exec (.decline p) s = .next t
        ∧ t = { s with leases := t.leases, queues := t.queues, ports := t.ports, lastServed := p }
        ∧ t.leases = s.leases.map (fun m => if m.id = l.id then { m with offer := none } else m)
        ∧ Received l.holder [.offerLapsed l.id .declined] s t
        ∧ (∀ h, h ≠ l.holder → t.eventQueue h = s.eventQueue h) ∧ Answered p tag .decline .ok [] s t

/-- R54: a due offer lapse returns the lease to ACTIVE, with OFFER_LAPSED TIMEOUT to the holder and OFFER_WITHDRAWN TIMEOUT
to the target, and changes neither the holder, nor the renew remaining, nor any line, nor the wait queue; a lapse that is
not due, or whose offer has ended, is not taken. -/
def Obligations.OfferLapseReturnsTheLease : Prop :=
  ∀ s : State, s.inReset = false → LeaseTableLaw s →
    (∀ (l : Lease) (o : Offer), l ∈ s.leases → l.offer = some o → o.remaining = 0 →
      ∃ t, exec (.offerLapse l.id) s = .next t ∧ t = { s with leases := t.leases, queues := t.queues }
        ∧ t.leases = s.leases.map (fun m => if m.id = l.id then { m with offer := none } else m)
        ∧ Received l.holder [.offerLapsed l.id .timeout] s t
        ∧ Received o.target [.offerWithdrawn l.id .timeout] s t
        ∧ (∀ h, h ≠ l.holder → h ≠ o.target → t.eventQueue h = s.eventQueue h))
    ∧ ∀ id, (∀ l ∈ s.leases, l.id = id → ∀ o ∈ l.offer, o.remaining ≠ 0) → exec (.offerLapse id) s = .next s

/-! ### Supervision -/

/-- R106: REVOKE, RESERVE and CLEAR_HOST from a port that is not the supervisor port are refused with NOT_SUPERVISOR,
whatever their parameters, and change nothing else; DETACH is taken from any port. -/
def Obligations.SupervisorCommandsNeedTheSupervisorPort : Prop :=
  ∀ (s : State) (p : Host) (tag : Byte),
    (∀ (i : Instr) (cmd : Cmd),
      (i = .revoke p ∧ cmd = .revoke ∨ i = .reserve p ∧ cmd = .reserve ∨ i = .clearHost p ∧ cmd = .clearHost) →
      Served s p cmd tag → s.supervisor ≠ some p →
      ∃ t, exec i s = .next t ∧ t = { s with ports := t.ports, lastServed := p }
        ∧ Answered p tag cmd .notSupervisor [] s t)
    ∧ (Served s p .detach tag → ∃ t data, exec (.detach p) s = .next t ∧ Answered p tag .detach .ok data s t)

/-- R110, R43, R111: RESERVE replaces the allowed-host sets of the masked lines and no other, purges the waiting claims that
a masked line now excludes, with CLAIM_LAPSED DENIED in queue order, keeps every live lease, runs the scan if a claim was
purged (R34, R35), and answers their number. A mask that names no line, or a set that names a host above 3, is refused with
BAD_PARAM. -/
def Obligations.ReserveReplacesSetsAndPurges : Prop :=
  ∀ (s : State) (p : Host) (tag : Byte), Served s p .reserve tag → s.supervisor = some p →
    ((paramMask (s.port p).params 0 = 0 ∨ 15 < s.arg p 3) →
      ∃ t, exec (.reserve p) s = .next t ∧ t = { s with ports := t.ports, lastServed := p }
        ∧ Answered p tag .reserve .badParam [] s t)
    ∧ ∀ a : HostSet, paramMask (s.port p).params 0 ≠ 0 → s.arg p 3 = a.toNat →
      ∃ t grants, exec (.reserve p) s = .next t
        ∧ t = { s with
            allowed := t.allowed, leases := t.leases, leaseCounter := t.leaseCounter, queue := t.queue,
            lines := t.lines, queues := t.queues, ports := t.ports, lastServed := p }
        ∧ (∀ i : Line, t.allowedOn i = if (paramMask (s.port p).params 0).getLsbD i.val then a else s.allowedOn i)
        ∧ ((∃ c ∈ s.queue, excludedBy (paramMask (s.port p).params 0) a c = true) →
            Scanned s.leases (s.queue.filter fun c => !excludedBy (paramMask (s.port p).params 0) a c) grants s t)
        ∧ ((∀ c ∈ s.queue, excludedBy (paramMask (s.port p).params 0) a c = false) →
            grants = [] ∧ t.queue = s.queue ∧ t.leases = s.leases ∧ t.leaseCounter = s.leaseCounter)
        ∧ (∀ i : Line, t.line i = { s.line i with holder := holderAfter grants i (s.line i).holder })
        ∧ (∀ h : Host, ReceivedThenGrants h ((s.queue.filter fun c =>
              excludedBy (paramMask (s.port p).params 0) a c && c.host == h).map
                fun c => Event.claimLapsed c.ticket .denied) grants s t)
        ∧ Answered p tag .reserve .ok
            [byteOf (s.queue.filter (excludedBy (paramMask (s.port p).params 0) a)).length] s t

/-- R113, R114, R115, R116, R151: DETACH tears its caller down and leaves its queue as after device reset; CLEAR_HOST by the
supervisor tears the named host down and leaves one CLEARED record, at seq 0, in its queue. The lines of its leases are
parked, their changes of raw level are handed on and the scan runs over the claims of the other hosts. (The order of the
sources of one lease is log entry 16; that a line moved by two of the parkings is handed on twice is log entry 22; settle, raw
and keeper level of a line parked in a pulse are log entry 26.) Both answer their caller the
numbers of leases ended and claims removed; a CLEAR_HOST of a host above 3 is refused with BAD_PARAM. -/
def Obligations.DetachAndClearHostTearTheHostDown : Prop :=
  ∀ (s : State) (p : Host) (tag : Byte), LeaseTableLaw s → DisjointLaw s → BindingLaw s →
    (Served s p .detach tag →
      ∃ t, exec (.detach p) s = .next t
        ∧ t = { s with
            leases := t.leases, leaseCounter := t.leaseCounter, queue := t.queue, lines := t.lines, queues := t.queues,
            arrivals := t.arrivals, subs := t.subs, ports := t.ports, lastServed := p }
        ∧ TornDown p ⟨[], 0, 255, 0, true, false⟩ s t
        ∧ Answered p tag .detach .ok
            [byteOf (s.leases.filter fun m => m.holder == p).length,
             byteOf (s.queue.filter fun c => c.host == p).length] s t)
    ∧ (Served s p .clearHost tag → s.supervisor = some p →
      (∀ n : Host, s.arg p 0 = n.val →
        ∃ t, exec (.clearHost p) s = .next t
          ∧ t = { s with
              leases := t.leases, leaseCounter := t.leaseCounter, queue := t.queue, lines := t.lines, queues := t.queues,
              arrivals := t.arrivals, subs := t.subs, ports := t.ports, lastServed := p }
          ∧ TornDown n ⟨[⟨.cleared p, 0, s.timestamp⟩], 1, 255, 0, true, true⟩ s t
          ∧ Answered p tag .clearHost .ok
              [byteOf (s.leases.filter fun m => m.holder == n).length,
               byteOf (s.queue.filter fun c => c.host == n).length] s t)
      ∧ (3 < s.arg p 0 →
        ∃ t, exec (.clearHost p) s = .next t ∧ t = { s with ports := t.ports, lastServed := p }
          ∧ Answered p tag .clearHost .badParam [] s t))

/-! ### Lines -/

/-- R71, R73, R75, R94: the refusals of SET_LEVEL, CONFIGURE and PULSE. A mask that names no line, a line above 23, and a code,
level or duration out of range are refused with BAD_PARAM. Then lease id 0 and an id no line is bound to are refused with
NO_LEASE, and a named line bound to another lease or another host with NOT_HOLDER. Then a named line whose function stands
in the way is refused with BUSY. -/
def Obligations.LineCommandRefusalsInOrder : Prop :=
  ∀ (s : State) (p : Host) (tag : Byte) (i : Instr) (cmd : Cmd), Waiting s p cmd tag →
    ((i = .setLevel p ∧ cmd = .setLevel ∧ paramMask (s.port p).params 1 = 0
        ∨ i = .configure p ∧ cmd = .configure ∧ s.arg p 5 ≠ 1
          ∧ (23 < s.arg p 1 ∨ 1 < s.arg p 2 ∨ 3 < s.arg p 3 ∨ 2 < s.arg p 4 ∨ 1 < s.arg p 5)
        ∨ i = .configureMirror p ∧ cmd = .configure ∧ s.arg p 5 = 1
          ∧ (23 < s.arg p 1 ∨ 1 < s.arg p 2 ∨ 3 < s.arg p 3 ∨ 2 < s.arg p 4)
        ∨ i = .pulse p ∧ cmd = .pulse ∧ (23 < s.arg p 1 ∨ 1 < s.arg p 2 ∨ param16 (s.port p).params 3 = 0)) →
      ∃ t, exec i s = .next t ∧ t = { s with ports := t.ports } ∧ Answered p tag cmd .badParam [] s t)
    ∧ ∀ named : List Line,
      (i = .setLevel p ∧ cmd = .setLevel ∧ paramMask (s.port p).params 1 ≠ 0
          ∧ named = maskLines (paramMask (s.port p).params 1)
        ∨ i = .configure p ∧ cmd = .configure ∧ s.arg p 2 < 2 ∧ s.arg p 3 < 4 ∧ s.arg p 4 < 3 ∧ s.arg p 5 = 0
          ∧ named.map (fun x => x.val) = [s.arg p 1]
        ∨ i = .configureMirror p ∧ cmd = .configure ∧ s.arg p 2 < 2 ∧ s.arg p 3 < 4 ∧ s.arg p 4 < 3 ∧ s.arg p 5 = 1
          ∧ named.map (fun x => x.val) = [s.arg p 1]
        ∨ i = .pulse p ∧ cmd = .pulse ∧ s.arg p 2 < 2 ∧ param16 (s.port p).params 3 ≠ 0
          ∧ named.map (fun x => x.val) = [s.arg p 1]) →
      ((s.arg p 0 = 0 ∨ ∀ x b, (s.line x).holder = some b → b.lease ≠ s.arg p 0) →
        ∃ t, exec i s = .next t ∧ t = { s with ports := t.ports } ∧ Answered p tag cmd .noLease [] s t)
      ∧ (s.arg p 0 ≠ 0 → (∃ x b, (s.line x).holder = some b ∧ b.lease = s.arg p 0) →
        (∃ x ∈ named, (s.line x).holder ≠ some ⟨s.arg p 0, p⟩) →
        ∃ t, exec i s = .next t ∧ t = { s with ports := t.ports } ∧ Answered p tag cmd .notHolder [] s t)
      ∧ (s.arg p 0 ≠ 0 → (∀ x ∈ named, (s.line x).holder = some ⟨s.arg p 0, p⟩) →
        (∃ x ∈ named, (s.line x).pulsing = true ∨ (cmd = .setLevel ∨ cmd = .pulse) ∧ (s.line x).function ≠ .plain) →
        ∃ t, exec i s = .next t ∧ t = { s with ports := t.ports } ∧ Answered p tag cmd .busy [] s t)

/-- R74, R62, R63, R66: SET_LEVEL by the holder writes the output level of each named PLAIN line; a change of driven value
restarts its settle and clears its mismatch flag; the raw level is recomputed and its changes are handed on in ascending
line order; no other line changes. -/
def Obligations.SetLevelWritesTheNamedLines : Prop :=
  ∀ (s : State) (p : Host) (tag : Byte), Waiting s p .setLevel tag → s.arg p 0 ≠ 0 →
    paramMask (s.port p).params 1 ≠ 0 →
    (∀ i ∈ maskLines (paramMask (s.port p).params 1),
      (s.line i).holder = some ⟨s.arg p 0, p⟩ ∧ (s.line i).function = .plain) →
    ∃ t, exec (.setLevel p) s = .next t
      ∧ t = { s with lines := t.lines, arrivals := t.arrivals, ports := t.ports }
      ∧ (∀ i : Line, t.line i = if (paramMask (s.port p).params 1).getLsbD i.val then
          LineRec.after s.external[i] (s.line i)
            { s.line i with level := (paramMask (s.port p).params 4).getLsbD i.val }
          else s.line i)
      ∧ HandedOn allLines s t ∧ Answered p tag .setLevel .ok [] s t

/-- R76, R91: CONFIGURE with function PLAIN by the holder writes direction, drive and pull, ends a mirror and its fault,
clears the mismatch flag, restarts the settle and keeps the output level; if the line is OUT, each of its unfaulted
mirrors faults, with MIRROR_FAULT to the mirror's holder. -/
def Obligations.ConfigureWritesThePlainSettings : Prop :=
  ∀ (s : State) (p : Host) (tag : Byte) (x : Line) (d : Direction) (v : Drive) (u : Pull),
    Waiting s p .configure tag → s.arg p 0 ≠ 0 → s.arg p 1 = x.val → directionOf (s.arg p 2) = some d →
    driveOf (s.arg p 3) = some v → pullOf (s.arg p 4) = some u → s.arg p 5 = 0 →
    (s.line x).holder = some ⟨s.arg p 0, p⟩ → (s.line x).pulsing = false →
    ∃ t, exec (.configure p) s = .next t
      ∧ t = { s with lines := t.lines, arrivals := t.arrivals, queues := t.queues, ports := t.ports }
      ∧ (∀ i : Line, t.line i =
          if i = x then
            LineRec.after s.external[i] { s.line i with settle := 4, mismatch := false }
              { s.line i with
                direction := d, drive := v, pull := u, function := .plain, settle := 4, mismatch := false }
          else if d = .output ∧ s.followsSource x i = true then
            LineRec.after s.external[i] (s.line i) (s.line i).withFault
          else s.line i)
      ∧ HandedOn (x :: allLines.filter fun i => i != x) s t
      ∧ (∀ h : Host, Received h (if d = .output then mirrorFaults s x (fun m => m == x) h else []) s t)
      ∧ Answered p tag .configure .ok [] s t

/-- R89, R91: CONFIGURE with function MIRROR by the holder makes the line an OUT mirror of its source. A source that is IN
is followed at once from its filtered level, whatever R93 says of a CONFIGURE of it that comes later (log entry 27); a
source that is OUT faults the mirror, keeps its output level and sends MIRROR_FAULT to the caller. Every unfaulted mirror of
the line itself faults. With function MIRROR, direction IN, a source above 23 or equal to the line, or an invert above 1 is
refused with BAD_PARAM. -/
def Obligations.ConfigureMirrorFollowsOrFaults : Prop :=
  ∀ (s : State) (p : Host) (tag : Byte) (x : Line) (v : Drive) (u : Pull),
    Waiting s p .configure tag → s.arg p 0 ≠ 0 → s.arg p 1 = x.val → s.arg p 2 < 2 →
    driveOf (s.arg p 3) = some v → pullOf (s.arg p 4) = some u → s.arg p 5 = 1 →
    (s.line x).holder = some ⟨s.arg p 0, p⟩ → (s.line x).pulsing = false →
    ((s.arg p 2 = 0 ∨ 23 < s.arg p 6 ∨ s.arg p 6 = x.val ∨ 1 < s.arg p 7) →
      ∃ t, exec (.configureMirror p) s = .next t ∧ t = { s with ports := t.ports }
        ∧ Answered p tag .configure .badParam [] s t)
    ∧ ∀ (source : Line) (invert : Bool), s.arg p 2 = 1 → s.arg p 6 = source.val → source ≠ x →
    s.arg p 7 = (if invert then 1 else 0) →
    ∃ t, exec (.configureMirror p) s = .next t
      ∧ t = { s with lines := t.lines, arrivals := t.arrivals, queues := t.queues, ports := t.ports }
      ∧ (∀ i : Line, t.line i =
          if i = x then
            LineRec.after s.external[i] { s.line i with settle := 4, mismatch := false }
              { s.line i with
                direction := .output, drive := v, pull := u, settle := 4, mismatch := false
                function := .mirror source invert (decide ((s.line source).direction = .output))
                level := if (s.line source).direction = .output then (s.line i).level
                  else xor (s.input source).filtered invert }
          else if s.followsSource x i then LineRec.after s.external[i] (s.line i) (s.line i).withFault
          else s.line i)
      ∧ HandedOn (x :: allLines.filter fun i => i != x) s t
      ∧ (∀ h : Host, Received h
          ((if h = p ∧ (s.line source).direction = .output then [Event.mirrorFault x source] else [])
            ++ mirrorFaults s x (fun m => m == x) h) s t)
      ∧ Answered p tag .configure .ok [] s t

/-- R95: PULSE by the holder of a PLAIN OUT line records the present output level as its revert level, takes the pulse level
for the duration and changes no other line. On a line with direction IN it is refused with BAD_PARAM. -/
def Obligations.PulseTakesThePulseLevel : Prop :=
  ∀ (s : State) (p : Host) (tag : Byte) (x : Line) (v : Level), Waiting s p .pulse tag → s.arg p 0 ≠ 0 →
    s.arg p 1 = x.val → s.arg p 2 = (if v then 1 else 0) → s.arg p 3 + 256 * s.arg p 4 ≠ 0 →
    (s.line x).holder = some ⟨s.arg p 0, p⟩ → (s.line x).function = .plain →
    ((s.line x).direction = .input →
      ∃ t, exec (.pulse p) s = .next t ∧ t = { s with ports := t.ports } ∧ Answered p tag .pulse .badParam [] s t)
    ∧ ((s.line x).direction = .output → ∃ t, exec (.pulse p) s = .next t
      ∧ t = { s with lines := t.lines, arrivals := t.arrivals, ports := t.ports }
      ∧ (∀ i : Line, t.line i = if i = x then
          LineRec.after s.external[i] (s.line i) { s.line i with
            level := v, function := .pulse v (s.line i).level (s.arg p 3 + 256 * s.arg p 4) }
          else s.line i)
      ∧ HandedOn [x] s t ∧ Answered p tag .pulse .ok [] s t)

/-- R97: a due completion ends the pulse: the line is PLAIN at its revert level and its holder host receives PULSE_DONE with
the line and its lease id; a completion that is not due, or whose pulse has ended, is not taken. -/
def Obligations.PulseCompletionRevertsTheLevel : Prop :=
  ∀ (s : State) (x : Line), s.inReset = false →
    (∀ (level revert : Level) (b : Binding), (s.line x).function = .pulse level revert 0 →
        (s.line x).holder = some b →
      ∃ t, exec (.pulseCompletion x) s = .next t
        ∧ t = { s with lines := t.lines, arrivals := t.arrivals, queues := t.queues }
        ∧ (∀ i : Line, t.line i = if i = x then
            LineRec.after s.external[i] (s.line i) { s.line i with level := revert, function := .plain }
            else s.line i)
        ∧ HandedOn [x] s t ∧ Received b.host [.pulseDone x b.lease] s t
        ∧ (∀ h, h ≠ b.host → t.eventQueue h = s.eventQueue h))
    ∧ ((∀ level revert, (s.line x).function ≠ .pulse level revert 0) → exec (.pulseCompletion x) s = .next s)

/-- R78, R79, R185, R187: READ_LINES answers the raw, filtered and held masks and QUERY_LINE the record of the line, its
filtered level and its allowed-host set in 18 bytes with the codes of R183, to any host; neither changes anything else. -/
def Obligations.LineQueriesReportAndChangeNothing : Prop :=
  ∀ (s : State) (p : Host) (tag : Byte),
    (Waiting s p .readLines tag →
      ∃ t raw filtered held, exec (.readLines p) s = .next t ∧ t = { s with ports := t.ports }
        ∧ (∀ i : Line, raw.getLsbD i.val = (s.line i).raw ∧ filtered.getLsbD i.val = (s.input i).filtered
            ∧ held.getLsbD i.val = (s.line i).holder.isSome)
        ∧ Answered p tag .readLines .ok (maskBytes raw ++ maskBytes filtered ++ maskBytes held) s t)
    ∧ (Waiting s p .queryLine tag →
      (∀ x : Line, s.arg p 0 = x.val →
        ∃ t, exec (.queryLine p) s = .next t ∧ t = { s with ports := t.ports }
          ∧ Answered p tag .queryLine .ok
            [byteOf x.val,
             match (s.line x).direction with | .input => 0 | .output => 1,
             match (s.line x).drive with | .hiz => 0 | .sourceOpen => 1 | .sinkOpen => 2 | .pushPull => 3,
             match (s.line x).pull with | .noPull => 0 | .up => 1 | .down => 2,
             if (s.line x).level then 1 else 0,
             match (s.line x).function with | .plain => 0 | .mirror _ _ _ => 1 | .pulse _ _ _ => 2,
             match (s.line x).function with | .mirror source _ _ => byteOf source.val | .plain | .pulse _ _ _ => 0xFF,
             match (s.line x).function with | .mirror _ true _ => 1 | .mirror _ false _ | .plain | .pulse _ _ _ => 0,
             (match (s.line x).function with | .mirror _ _ true => 1 | .mirror _ _ false | .plain | .pulse _ _ _ => 0)
               + (if (s.line x).mismatch then 2 else 0),
             match (s.line x).function with
               | .pulse level _ _ => if level then 1 else 0
               | .plain | .mirror _ _ _ => 0xFF,
             match (s.line x).function with
               | .pulse _ revert _ => if revert then 1 else 0
               | .plain | .mirror _ _ _ => 0xFF,
             match (s.line x).function with | .pulse _ _ left => byteOf left | .plain | .mirror _ _ _ => 0,
             match (s.line x).function with | .pulse _ _ left => byteOf (left / 256) | .plain | .mirror _ _ _ => 0,
             byteOf (s.line x).settle,
             match (s.line x).holder with | some b => byteOf b.lease | none => 0,
             match (s.line x).holder with | some b => byteOf b.host.val | none => 0xFF,
             (if (s.line x).raw then 1 else 0) + (if (s.line x).keeper then 2 else 0)
               + (if (s.input x).filtered then 4 else 0),
             byteOf (s.allowedOn x).toNat] s t)
      ∧ (23 < s.arg p 0 →
        ∃ t, exec (.queryLine p) s = .next t ∧ t = { s with ports := t.ports }
          ∧ Answered p tag .queryLine .badParam [] s t))

/-- R64, R65, R66, R67: the board changes a line's external state: its raw level is the one R65 gives, and a change is handed
on; while device reset is in force the raw level stays and nothing is handed on. -/
def Obligations.ExternalChangeMovesTheRawLevel : Prop :=
  ∀ (s : State) (x : Line) (e : External),
    (s.inReset = false →
      ∃ t, exec (.externalStateChange x e) s = .next t
        ∧ t = { s with external := t.external, lines := t.lines, arrivals := t.arrivals }
        ∧ (∀ i : Line, t.external[i] = if i = x then e else s.external[i])
        ∧ (∀ i : Line, t.line i = if i = x then LineRec.after e (s.line i) (s.line i) else s.line i)
        ∧ HandedOn [x] s t)
    ∧ (s.inReset = true →
      ∃ t, exec (.externalStateChange x e) s = .next t ∧ t = { s with external := t.external }
        ∧ (∀ i : Line, t.external[i] = if i = x then e else s.external[i]))

/-- R90: a report of line x with level v makes every unfaulted mirror of x follow it, in ascending line order, and tests the
drive of x against v; faulted mirrors stand. Of the reports in flight one is taken exactly where it is the first left of
its tick and the oldest of its line; without a report of x none is taken (log entry 5). -/
def Obligations.FilteredReportMovesTheMirrors : Prop :=
  (∀ (x : Line) (v : Level) (batches rest : List (List LevelChange)), takeChange x batches = some (v, rest) ↔
      ∃ older batch younger, batches = older ++ (⟨x, v⟩ :: batch) :: younger ∧ (∀ b ∈ older, ∀ c ∈ b, c.line ≠ x)
        ∧ rest = older ++ if batch = [] then younger else batch :: younger)
  ∧ (∀ (s : State) (x : Line), takeChange x s.reports = none → exec (.filteredReport x) s = .next s)
  ∧ ∀ (s : State) (x : Line) (v : Level) (rest : List (List LevelChange)), s.inReset = false → MirrorLaw s →
    takeChange x s.reports = some (v, rest) →
    ∃ t, exec (.filteredReport x) s = .next t
      ∧ t = { s with reports := rest, lines := t.lines, arrivals := t.arrivals, queues := t.queues }
      ∧ (∀ m : Line, m ≠ x → t.line m = if s.followsSource x m then
          LineRec.after s.external[m] (s.line m) { s.line m with level := match (s.line m).function with
            | .mirror _ invert _ => xor v invert
            | .plain => (s.line m).level
            | .pulse _ _ _ => (s.line m).level }
          else s.line m)
      ∧ t.line x = { s.line x with mismatch := (s.line x).mismatch || ((s.line x).contested v).isSome }
      ∧ HandedOn allLines s t
      ∧ ∀ h : Host, Received h (if (s.line x).heldBy h then
          (((s.line x).contested v).map fun d => Event.mismatch x d).toList else []) s t

/-! ### Input monitor -/

/-- R66, R125, R126, R128: an arrival sets the seen level and raises EDGE for exactly the hosts whose subscription on the line
watches RAW in a matching edge mode; it touches no sample and no filtered level. The change of a line that is taken, an
arrival as well as a report, is the oldest one of that line in flight, and those of every other line stay in their
order; a change is taken exactly where it is the first left of its event and the oldest of its line. Without an arrival of
the line none is taken (log entry 5). -/
def Obligations.ArrivalSetsTheSeenLevel : Prop :=
  (∀ (x : Line) (v : Level) (batches rest : List (List LevelChange)), takeChange x batches = some (v, rest) →
      inFlight x batches = v :: inFlight x rest ∧ ∀ y, y ≠ x → inFlight y rest = inFlight y batches)
  ∧ (∀ (x : Line) (v : Level) (batches rest : List (List LevelChange)), takeChange x batches = some (v, rest) ↔
      ∃ older batch younger, batches = older ++ (⟨x, v⟩ :: batch) :: younger ∧ (∀ b ∈ older, ∀ c ∈ b, c.line ≠ x)
        ∧ rest = older ++ if batch = [] then younger else batch :: younger)
  ∧ (∀ (s : State) (x : Line), takeChange x s.arrivals = none → exec (.arrival x) s = .next s)
  ∧ ∀ (s : State) (x : Line) (v : Level) (rest : List (List LevelChange)), s.inReset = false →
    takeChange x s.arrivals = some (v, rest) →
    ∃ t, exec (.arrival x) s = .next t
      ∧ t = { s with
          arrivals := rest, startUp := s.startUp.filter (fun i => i != x), inputs := t.inputs, queues := t.queues }
      ∧ (∀ i : Line, t.input i = if i = x then { s.input i with seen := v } else s.input i)
      ∧ ∀ h : Host, Received h (match s.subscription h x with
          | some ⟨.rise, .raw⟩ => if v then [.edge x v .raw] else []
          | some ⟨.fall, .raw⟩ => if v then [] else [.edge x v .raw]
          | some ⟨.both, .raw⟩ => [.edge x v .raw]
          | some ⟨_, .filtered⟩ => []
          | none => []) s t

/-- R127, R128, R126: a sample tick adds every line's seen level to its three samples; three equal samples become the
filtered level; each change of filtered level raises FILTERED EDGE records, in ascending line order, and is reported to the
line matrix. Each SUBSCRIBE or UNSUBSCRIBE that waits lets the tick pass, and while one has let a tick pass no second is taken
(R123; log entry 24); nor is one before the arrivals of the end of device reset (R133; log entry 25). -/
def Obligations.SampleTickFiltersEveryLine : Prop :=
  ∀ s : State, s.inReset = false →
    ((s.overdue .inputMonitor = true ∨ s.startUp ≠ []) → exec .sampleTick s = .next s)
    ∧ (s.overdue .inputMonitor = false → s.startUp = [] → ∃ t, exec .sampleTick s = .next t
      ∧ t = { s with inputs := t.inputs, reports := t.reports, queues := t.queues, ports := t.ports }
      ∧ (∀ p : Host, t.port p = { s.port p with
          ticked := (s.port p).ticked || (s.port p).waitsFor .inputMonitor })
      ∧ (∀ i : Line, t.input i = ⟨(s.input i).seen, (s.input i).middle, (s.input i).newest, (s.input i).seen,
          if (s.input i).middle = (s.input i).newest ∧ (s.input i).newest = (s.input i).seen then (s.input i).seen
          else (s.input i).filtered⟩)
      ∧ t.reports = s.reports ++
          (if ∀ i : Line, (t.input i).filtered = (s.input i).filtered then []
           else [(allLines.filter fun i => (t.input i).filtered != (s.input i).filtered).map
             fun i => ⟨i, (t.input i).filtered⟩])
      ∧ ∀ h : Host, Received h ((allLines.filter fun i => (t.input i).filtered != (s.input i).filtered
          && match s.subscription h i with
            | some ⟨mode, .filtered⟩ => mode.matchesEdge (t.input i).filtered
            | some ⟨_, .raw⟩ => false
            | none => false).map fun i => .edge i (t.input i).filtered .filtered) s t)

/-- R123, R124: SUBSCRIBE creates or replaces the caller's subscriptions on the masked lines and UNSUBSCRIBE removes them;
each answers how many lines the caller then watches, and touches no other host's. A mask that names no line is refused with
BAD_PARAM, and so is a SUBSCRIBE whose edge mode or filter code names none. No SUBSCRIBE is taken before the arrivals of the
end of device reset (R133; log entry 25). -/
def Obligations.SubscriptionsFollowTheMask : Prop :=
  ∀ (s : State) (p : Host) (tag : Byte),
    (s.startUp ≠ [] → exec (.subscribe p) s = .next s)
    ∧ (Waiting s p .subscribe tag → s.startUp = [] → (paramMask (s.port p).params 0 = 0 ∨ 2 < s.arg p 3 ∨ 1 < s.arg p 4) →
      ∃ t, exec (.subscribe p) s = .next t ∧ t = { s with ports := t.ports }
        ∧ Answered p tag .subscribe .badParam [] s t)
    ∧ (Waiting s p .unsubscribe tag → paramMask (s.port p).params 0 = 0 →
      ∃ t, exec (.unsubscribe p) s = .next t ∧ t = { s with ports := t.ports }
        ∧ Answered p tag .unsubscribe .badParam [] s t)
    ∧ (paramMask (s.port p).params 0 ≠ 0 →
      (∀ (mode : EdgeMode) (filter : Filter), Waiting s p .subscribe tag → s.startUp = [] → edgeModeOf (s.arg p 3) = some mode →
        filterOf (s.arg p 4) = some filter →
        ∃ t, exec (.subscribe p) s = .next t ∧ t = { s with subs := t.subs, ports := t.ports }
          ∧ (∀ (h : Host) (i : Line), t.subscription h i =
              if h = p ∧ (paramMask (s.port p).params 0).getLsbD i.val = true then some ⟨mode, filter⟩
              else s.subscription h i)
          ∧ Answered p tag .subscribe .ok [byteOf (allLines.filter fun i => (t.subscription p i).isSome).length] s t)
      ∧ (Waiting s p .unsubscribe tag →
        ∃ t, exec (.unsubscribe p) s = .next t ∧ t = { s with subs := t.subs, ports := t.ports }
          ∧ (∀ (h : Host) (i : Line), t.subscription h i =
              if h = p ∧ (paramMask (s.port p).params 0).getLsbD i.val = true then none else s.subscription h i)
          ∧ Answered p tag .unsubscribe .ok
              [byteOf (allLines.filter fun i => (t.subscription p i).isSome).length] s t))

/-! ### Event queues -/

/-- R143, R144, R145, R146, R147, R188: a POLL is judged by where its ack seq lies. A seq that is the last acknowledged plus j, with
j from 1 to the number of records, removes the first j; if records were lost, one OVERFLOW record with their count follows
the rest and the count is 0. The last acknowledged seq, or no acknowledgement, removes nothing. Each returns the first
records left, as many as the maximum allows, and ATNn# follows. Any other seq is refused with BAD_SEQ, and a flag above 1
or a maximum outside 1 to 7 with BAD_PARAM. A record is written in 8 bytes: kind
code, seq, timestamp and four fields. -/
def Obligations.PollAcknowledgesThroughTheSeq : Prop :=
  (∀ (seq : Byte) (time : Timestamp) (e : Event), recordBytes ⟨e, seq, time⟩ =
    let bytes := fun code f1 f2 f3 => [code, seq, byteOf time.toNat, byteOf (time.toNat / 256), f1, f2, f3, 0]
    let reason : Reason → Byte := fun r => match r with
      | .timeout => 1 | .denied => 2 | .superseded => 3 | .expired => 4 | .revoked => 5 | .declined => 6
      | .targetGone => 7 | .released => 8 | .holderGone => 9
    match e with
    | .edge line level .raw => bytes 0x01 (byteOf line.val) (if level then 1 else 0) 0
    | .edge line level .filtered => bytes 0x01 (byteOf line.val) (if level then 1 else 0) 1
    | .granted ticket lease => bytes 0x02 (byteOf ticket) (byteOf lease) 0
    | .claimLapsed ticket r => bytes 0x03 (byteOf ticket) (reason r) 0
    | .leaseLost lease r => bytes 0x04 (byteOf lease) (reason r) 0
    | .offered lease holder lines => bytes 0x05 (byteOf lease) (byteOf holder.val) (byteOf lines)
    | .offerLapsed lease r => bytes 0x06 (byteOf lease) (reason r) 0
    | .offerWithdrawn lease r => bytes 0x07 (byteOf lease) (reason r) 0
    | .transferred lease holder => bytes 0x08 (byteOf lease) (byteOf holder.val) 0
    | .pulseDone line lease => bytes 0x09 (byteOf line.val) (byteOf lease) 0
    | .mirrorFault line source => bytes 0x0A (byteOf line.val) (byteOf source.val) 0
    | .mismatch line driven => bytes 0x0B (byteOf line.val) (if driven then 1 else 0) 0
    | .overflow lost => bytes 0x0C (byteOf lost) 0 0
    | .cleared supervisor => bytes 0x0D (byteOf supervisor.val) 0 0)
  ∧ ∀ (s : State) (p : Host) (tag : Byte), Waiting s p .poll tag → (s.eventQueue p).Ok →
    ((1 < s.arg p 0 ∨ s.arg p 2 = 0 ∨ 7 < s.arg p 2) →
      ∃ t, exec (.poll p) s = .next t ∧ t = { s with ports := t.ports }
        ∧ Answered p tag .poll .badParam [] s t)
    ∧ (1 ≤ s.arg p 2 → s.arg p 2 ≤ 7 →
      (∀ j, s.arg p 0 = 1 → 1 ≤ j → j ≤ (s.eventQueue p).records.length →
        param (s.port p).params 1 = (s.eventQueue p).lastAck + BitVec.ofNat 8 j →
        ∃ t, exec (.poll p) s = .next t ∧ t = { s with queues := t.queues, ports := t.ports }
          ∧ (∀ h, h ≠ p → t.eventQueue h = s.eventQueue h)
          ∧ t.eventQueue p = { s.eventQueue p with
              lastAck := param (s.port p).params 1
              lost := 0
              records := (s.eventQueue p).records.drop j ++
                (if (s.eventQueue p).lost = 0 then []
                 else [⟨.overflow (s.eventQueue p).lost, (s.eventQueue p).counter, s.timestamp⟩])
              counter := (s.eventQueue p).counter + (if (s.eventQueue p).lost = 0 then 0 else 1)
              attention := (s.eventQueue p).enable && !(t.eventQueue p).records.isEmpty }
          ∧ Answered p tag .poll .ok (((t.eventQueue p).records.take (s.arg p 2)).flatMap recordBytes) s t)
      ∧ ((s.arg p 0 = 0 ∨ s.arg p 0 = 1 ∧ param (s.port p).params 1 = (s.eventQueue p).lastAck) →
        ∃ t, exec (.poll p) s = .next t ∧ t = { s with ports := t.ports }
          ∧ Answered p tag .poll .ok (((s.eventQueue p).records.take (s.arg p 2)).flatMap recordBytes) s t)
      ∧ (s.arg p 0 = 1 →
          (∀ j, j ≤ (s.eventQueue p).records.length →
            param (s.port p).params 1 ≠ (s.eventQueue p).lastAck + BitVec.ofNat 8 j) →
        ∃ t, exec (.poll p) s = .next t ∧ t = { s with ports := t.ports }
          ∧ Answered p tag .poll .badSeq [] s t))

/-- R150, R149: ATTENTION sets the caller's attention enable and ATNn# follows; another value is refused with BAD_PARAM. -/
def Obligations.AttentionSetsTheEnable : Prop :=
  ∀ (s : State) (p : Host) (tag : Byte), Waiting s p .attention tag →
    (∀ on : Bool, s.arg p 0 = (if on then 1 else 0) →
      ∃ t, exec (.attention p) s = .next t ∧ t = { s with queues := t.queues, ports := t.ports }
        ∧ (∀ h, h ≠ p → t.eventQueue h = s.eventQueue h)
        ∧ t.eventQueue p = { s.eventQueue p with
            enable := on, attention := on && !(s.eventQueue p).records.isEmpty }
        ∧ Answered p tag .attention .ok [] s t)
    ∧ (1 < s.arg p 0 →
      ∃ t, exec (.attention p) s = .next t ∧ t = { s with ports := t.ports }
        ∧ Answered p tag .attention .badParam [] s t)

/-! ### Owners and their answers -/

/-- R169, R164: the owner of a command that waits places its result in the slot of the port it came from, in the event in
which it takes it: the slot is READY with the tag and command it held as PENDING and at most 56 bytes of data, and the
repeat guard is set to the accepted frame. A row whose command does not wait at the port, or whose port the arbiter does not
serve next, takes nothing (R6; log entry 5), nor does a SUBSCRIBE before the arrivals of the end of device reset (R133; log
entry 25), nor does that one of the two rows of CONFIGURE whose function the pending command does not ask for (log entry
6). -/
def Obligations.OwnersPlaceTheirResult : Prop :=
  (∀ (i : Instr) (s : State) (p : Host) (cmd : Cmd), Instr.ownerCommand i = some (p, cmd) →
    ((∀ tag, (s.port p).slot ≠ .pending tag cmd) ∨ cmd.owner = .leaseController ∧ s.arbiterPick ≠ some p
      ∨ cmd = .subscribe ∧ s.startUp ≠ [] ∨ Instr.takesParams i (s.port p).params = false) →
    exec i s = .next s)
  ∧ ∀ (i : Instr) (s : State) (p : Host) (cmd : Cmd) (tag : Byte), Instr.ownerCommand i = some (p, cmd) →
    Waiting s p cmd tag → Instr.takesParams i (s.port p).params = true →
    (cmd.owner = .leaseController → s.arbiterPick = some p) → (cmd = .subscribe → s.startUp = []) → LeaseTableLaw s →
    ∃ t st data, exec i s = .next t ∧ Answered p tag cmd st data s t ∧ data.length ≤ 56

/-- R10: a lease controller command that is refused changes no state but the slot of its port, with its guard, and the
arbiter's last-served port, and returns no data. -/
def Obligations.RefusedLeaseCommandsChangeNothing : Prop :=
  ∀ (i : Instr) (s t : State) (p : Host) (cmd : Cmd) (tag tag' code : Byte) (st : Status) (data : List Byte),
    Instr.ownerCommand i = some (p, cmd) → cmd.owner = .leaseController → Served s p cmd tag →
    exec i s = .next t → (t.port p).slot = .ready st tag' code data → st ≠ .ok → st ≠ .queued →
    t = { s with ports := t.ports, lastServed := p } ∧ Answered p tag cmd st [] s t

/-- R72: a line command that is refused changes no state but the slot of its port, with its guard, and returns no data. -/
def Obligations.RefusedLineCommandsChangeNothing : Prop :=
  ∀ (i : Instr) (s t : State) (p : Host) (cmd : Cmd) (tag tag' code : Byte) (st : Status) (data : List Byte),
    Instr.ownerCommand i = some (p, cmd) → cmd.owner = .lineMatrix → Waiting s p cmd tag →
    Instr.takesParams i (s.port p).params = true →
    exec i s = .next t → (t.port p).slot = .ready st tag' code data → st ≠ .ok →
    t = { s with ports := t.ports } ∧ Answered p tag cmd st [] s t

/-! ### Host ports -/

/-- R157, R163, R172, R175, R176, R177: a start, a stop, a bus error, and a bus timer that has run to 0 in RX or TX while SCL
is low end the transaction under way: SDA is released, whether the port acknowledged or sent, the ACK, the image, the CRC
register and the bus timer are dropped, and a frame in reception is discarded; the slot and the guard stay, and nothing but the
port changes. The port then receives an address byte after a start, waits for a start after a stop, and stands aside after a
timeout. A timeout of a port whose timer has time left or is stopped, or that is IDLE, is not taken; one that has come is taken
before any other event at its port and before any millisecond tick that is taken (log entry 14). (That the condition of a bus error acts so at
a port standing aside too is log entry 7.) -/
def Obligations.ConditionsAndTimeoutEndTheTransaction : Prop :=
  ∀ (s : State) (p : Host), s.inReset = false →
    (∀ (i : Instr) (next : Txn),
      (i = .startCondition p ∧ next = .addressing ∨ i = .stopCondition p ∧ next = .waiting
        ∨ i = .busError p .start ∧ next = .addressing ∨ i = .busError p .stop ∧ next = .waiting
        ∨ i = .busTimeout p ∧ next = .aside ∧ ((s.port p).txn = .rx ∨ (s.port p).txn = .tx)
          ∧ (s.port p).timer = ⟨0, true⟩) →
      ∃ t, exec i s = .next t ∧ t = { s with ports := t.ports } ∧ (∀ q, q ≠ p → t.port q = s.port q)
        ∧ t.port p = { s.port p with
            txn := next, crc := none, image := none, timer := ⟨0, false⟩, ack := .absent, sda := .released
            acks := (t.port p).acks
            buffer := if (s.port p).txn = .rx then [] else (s.port p).buffer })
    ∧ (((s.port p).txn ≠ .rx ∧ (s.port p).txn ≠ .tx ∨ (s.port p).timer ≠ ⟨0, true⟩) →
      exec (.busTimeout p) s = .next s)
    ∧ ∀ t : State, exec (.busTimeout p) s = .next t → ∀ i : Instr,
      (i = .startCondition p ∨ i = .stopCondition p ∨ (∃ c, i = .busError p c) ∨ (∃ b, i = .addressByte p b)
        ∨ (∃ bytes scl, i = .commandFrame p bytes scl) ∨ (∃ answers scl, i = .responseRead p answers scl)
        ∨ (∃ order, i = .millisecondTick order ∧ s.overdue .lineMatrix = false)) →
      exec i s = exec i t

/-- R159, R171: a completed address byte: another address is not answered; a write is refused with NACK while the slot is
PENDING and otherwise enters RX; a read is always acknowledged, enters TX and latches the image of the slot. The
answer is decided as the byte's eighth bit is taken, and SDA is still released (R158). A byte that is no address byte of the
port changes nothing (log entry 5). -/
def Obligations.AddressByteIsJudged : Prop :=
  (∀ (s : State) (p : Host) (b : Byte), (s.port p).timedOut = false →
    (s.port p).txn ≠ .addressing → exec (.addressByte p b) s = .next s)
  ∧ ∀ (s : State) (p : Host) (b : Byte), s.inReset = false → (s.port p).txn = .addressing →
    ∃ t, exec (.addressByte p b) s = .next t ∧ t = { s with ports := t.ports } ∧ (∀ q, q ≠ p → t.port q = s.port q)
      ∧ (t.port p).slot = (s.port p).slot ∧ (t.port p).repeatGuard = (s.port p).repeatGuard
      ∧ (b.extractLsb' 1 7 ≠ s.busAddress → (t.port p).txn = .aside ∧ (t.port p).ack = .absent
          ∧ (t.port p).sda = .released
          ∧ (t.port p).buffer = (s.port p).buffer)
      ∧ (b.extractLsb' 1 7 = s.busAddress → b.getLsbD 0 = false → (∃ tag cmd, (s.port p).slot = .pending tag cmd) →
          (t.port p).txn = .aside ∧ (t.port p).ack = .absent ∧ (t.port p).sda = .released
          ∧ (t.port p).buffer = (s.port p).buffer)
      ∧ (b.extractLsb' 1 7 = s.busAddress → b.getLsbD 0 = false → (∀ tag cmd, (s.port p).slot ≠ .pending tag cmd) →
          (t.port p).txn = .rx ∧ (t.port p).ack = .decided ∧ (t.port p).sda = .released ∧ (t.port p).buffer = []
          ∧ (t.port p).timer = ⟨25, false⟩ ∧ (t.port p).crc = some (crcOf [b]))
      ∧ (b.extractLsb' 1 7 = s.busAddress → b.getLsbD 0 = true →
          (t.port p).txn = .tx ∧ (t.port p).ack = .decided ∧ (t.port p).sda = .released
          ∧ (t.port p).buffer = (s.port p).buffer
          ∧ (t.port p).timer = ⟨25, false⟩
          ∧ ∃ frame, (t.port p).image = some ⟨frame ++ [crcOf (b :: frame)], 0, 0⟩
            ∧ frame = match (s.port p).slot with
              | .empty => [0xF0, 0, 0, 0]
              | .pending tag cmd => [0xF1, tag, cmd.code, 0]
              | .ready st tag code data => [st.code, tag, code, byteOf data.length] ++ data)

/-- R158, R160, R162, R166, R167, R178: a whole frame with the right CRC is acknowledged at every byte and accepted: a repeat of
the guarded frame is answered from the slot, an unknown command BAD_COMMAND, a length that does not suit BAD_LENGTH, IDENTIFY
at once, and any other command waits PENDING for its owner. No other block is reached. A frame that comes in pieces is the
frame that comes whole. An edge of SCL alone moves the bus timer (R176) and the ACK of the byte before it: SDA is low for it
from the falling edge after the byte on until the falling edge that ends the ninth clock, and released otherwise (log entry 13).
A port that stands aside acknowledges no byte (R158, R159); one that is neither in RX nor aside takes nothing (log entry 5). -/
def Obligations.CommandFrameIsAccepted : Prop :=
  (∀ (s : State) (p : Host) (bytes : List Byte) (scl : Scl), (s.port p).timedOut = false →
    (s.port p).txn ≠ .rx → (s.port p).txn ≠ .aside → exec (.commandFrame p bytes scl) s = .next s)
  ∧ (∀ (s : State) (p : Host) (bytes : List Byte) (scl : Scl), s.inReset = false → (s.port p).txn = .aside → bytes ≠ [] →
    ∃ t, exec (.commandFrame p bytes scl) s = .next t ∧ t = { s with ports := t.ports }
      ∧ (∀ q, q ≠ p → t.port q = s.port q)
      ∧ t.port p = { s.port p with
          acks := (s.port p).acks ++ List.replicate bytes.length false, ack := .absent, sda := .released })
  ∧ (∀ (s t : State) (p : Host) (bytes more : List Byte) (scl scl' : Scl), more ≠ [] →
    exec (.commandFrame p bytes scl') s = .next t →
    exec (.commandFrame p more scl) t = exec (.commandFrame p (bytes ++ more) scl) s)
  ∧ (∀ (s : State) (p : Host) (scl : Scl), s.inReset = false → (s.port p).timedOut = false →
    ((s.port p).txn = .rx ∨ (s.port p).txn = .aside) →
    ∃ t, exec (.commandFrame p [] scl) s = .next t ∧ t = { s with ports := t.ports }
      ∧ (∀ q, q ≠ p → t.port q = s.port q)
      ∧ t.port p = { s.port p with
          timer :=
            if (s.port p).txn = .aside ∨ scl = .high ∧ ((s.port p).ack = .decided ∨ (s.port p).ack = .clocked) then
              (s.port p).timer
            else match scl with
              | .low => ⟨25, true⟩
              | .high => ⟨(s.port p).timer.remaining, false⟩
          ack := (s.port p).ack.after scl
          sda := match scl with
            | .low => if (s.port p).ack = .decided then .low else .released
            | .high => (s.port p).sda })
  ∧ ∀ (s : State) (p : Host) (code tag : Byte) (ps : List Byte) (crc : Byte) (scl : Scl), s.inReset = false →
    (s.port p).timedOut = false → (s.port p).txn = .rx → (s.port p).buffer = [] →
    (s.port p).crc = some (crcOf [addressOf s.busAddress false]) → ps.length ≤ 32 →
    crc = crcOf (addressOf s.busAddress false :: code :: tag :: byteOf ps.length :: ps) →
    ∃ t, exec (.commandFrame p (code :: tag :: byteOf ps.length :: (ps ++ [crc])) scl) s = .next t
      ∧ t = { s with ports := t.ports } ∧ (∀ q, q ≠ p → t.port q = s.port q)
      ∧ (t.port p).txn = .aside ∧ (t.port p).buffer = code :: tag :: byteOf ps.length :: (ps ++ [crc])
      ∧ (t.port p).acks = (s.port p).acks ++ List.replicate (ps.length + 4) true
      ∧ (t.port p).crc = none ∧ (t.port p).timer = ⟨0, false⟩
      ∧ (t.port p).ack = (match scl with | .low => .driven | .high => .decided)
      ∧ (t.port p).sda = (match scl with | .low => .low | .high => .released)
      ∧ (∀ pendingTag cmd, (t.port p).slot = .pending pendingTag cmd → (t.port p).ticked = false)
      ∧ ((t.port p).slot, (t.port p).repeatGuard) =
        (if (match (s.port p).slot with
              | .ready _ _ _ _ => (s.port p).repeatGuard == some ⟨tag, code, crc⟩
              | .empty | .pending _ _ => false) = true then ((s.port p).slot, (s.port p).repeatGuard)
         else match cmdOf code with
          | none => (.ready .badCommand tag code [], some ⟨tag, code, crc⟩)
          | some cmd =>
            if cmd.lengthOk ps = false then (.ready .badLength tag code [], some ⟨tag, code, crc⟩)
            else if cmd = .identify then
              (.ready .ok tag code [0x5A, 0x24, 0x01, byteOf p.val, if s.supervisor = some p then 1 else 0, 16, 8, 32],
                some ⟨tag, code, crc⟩)
            else (.pending tag cmd, none))

/-- R160, R161, R162, R163: a frame whose length byte is above 32, whose CRC byte is wrong, or that a start, a stop or a bus
error cuts short before its CRC byte is discarded: the receive buffer is empty, slot and guard stay as they were, and no block
is reached. The bytes after a refused length byte or CRC byte are not acknowledged and not stored; those before it are stored,
taken into the CRC register and acknowledged. -/
def Obligations.DiscardedFramesLeaveNoTrace : Prop :=
  ∀ (s : State) (p : Host) (code tag length : Byte) (bytes more : List Byte) (scl : Scl), s.inReset = false →
    (s.port p).timedOut = false → (s.port p).txn = .rx → (s.port p).buffer = [] →
    (s.port p).crc = some (crcOf [addressOf s.busAddress false]) →
    (32 < length.toNat →
      ∃ t, exec (.commandFrame p (code :: tag :: length :: more) scl) s = .next t
        ∧ t = { s with ports := t.ports } ∧ (∀ q, q ≠ p → t.port q = s.port q)
        ∧ (t.port p).txn = .aside ∧ (t.port p).buffer = [] ∧ (t.port p).slot = (s.port p).slot
        ∧ (t.port p).repeatGuard = (s.port p).repeatGuard
        ∧ (t.port p).acks = (s.port p).acks ++ [true, true] ++ List.replicate (more.length + 1) false
        ∧ (t.port p).ack = .absent ∧ (t.port p).sda = .released)
    ∧ (∀ crc, length.toNat ≤ 32 → bytes.length = length.toNat →
      crc ≠ crcOf (addressOf s.busAddress false :: code :: tag :: length :: bytes) →
      ∃ t, exec (.commandFrame p (code :: tag :: length :: (bytes ++ crc :: more)) scl) s = .next t
        ∧ t = { s with ports := t.ports } ∧ (∀ q, q ≠ p → t.port q = s.port q)
        ∧ (t.port p).txn = .aside ∧ (t.port p).buffer = [] ∧ (t.port p).slot = (s.port p).slot
        ∧ (t.port p).repeatGuard = (s.port p).repeatGuard
        ∧ (t.port p).acks = (s.port p).acks ++ List.replicate (bytes.length + 3) true
            ++ List.replicate (more.length + 1) false
        ∧ (t.port p).ack = .absent ∧ (t.port p).sda = .released)
    ∧ (∀ k, length.toNat ≤ 32 → bytes.length = length.toNat → k ≤ length.toNat + 3 →
      ∃ t, exec (.commandFrame p ((code :: tag :: length :: bytes).take k) scl) s = .next t ∧ (t.port p).txn = .rx
        ∧ (t.port p).buffer = (code :: tag :: length :: bytes).take k
        ∧ (t.port p).crc = some (crcOf (addressOf s.busAddress false :: (code :: tag :: length :: bytes).take k))
        ∧ (t.port p).acks = (s.port p).acks ++ List.replicate k true
        ∧ ∀ (i : Instr) (next : Txn),
          (i = .startCondition p ∧ next = .addressing ∨ i = .stopCondition p ∧ next = .waiting
            ∨ i = .busError p .start ∧ next = .addressing ∨ i = .busError p .stop ∧ next = .waiting) →
          ∃ u, exec i t = .next u ∧ u = { s with ports := u.ports } ∧ (∀ q, q ≠ p → u.port q = s.port q)
            ∧ (u.port p).txn = next ∧ (u.port p).buffer = []
            ∧ (u.port p).slot = (s.port p).slot ∧ (u.port p).repeatGuard = (s.port p).repeatGuard)

/-- R158, R172, R176: a port in TX sends the bytes of its image from its position on, in order, and then 0xFF, one for each
answer of the host, each from the bit reached in it. While the host acknowledges, the port stays in TX and goes on with the
next byte; the host's NACK ends the transmission. The slot and the guard stay, so that it may be read again. Edges of SCL alone
first end the port's own ACK of the read address, and then go through a byte bit by bit, the most significant first: a rising
edge takes a bit, and from the falling edge on SDA shows the next, low for a 0 bit and released for a 1 bit, and after the
eighth bit it is released for the host's answer. That SDA changes at the falling edges, what edges an event without an answer
holds, and that the ninth clock does not rise without one, is the model's choice (log entry 13). A port that stands aside sends
nothing; any other takes nothing (log entry 5). -/
def Obligations.ResponseReadSendsTheImage : Prop :=
  (∀ (s : State) (p : Host) (answers : List Bool) (scl : Scl), (s.port p).timedOut = false →
    (s.port p).txn ≠ .tx → (s.port p).txn ≠ .aside → exec (.responseRead p answers scl) s = .next s)
  ∧ (∀ (s : State) (p : Host) (scl : Scl), (s.port p).txn = .aside →
    exec (.responseRead p [] scl) s = exec (.commandFrame p [] scl) s)
  ∧ (∀ (s : State) (p : Host) (answers : List Bool) (scl : Scl), s.inReset = false → (s.port p).txn = .aside →
    answers ≠ [] →
    ∃ t, exec (.responseRead p answers scl) s = .next t ∧ t = { s with ports := t.ports }
      ∧ (∀ q, q ≠ p → t.port q = s.port q) ∧ t.port p = { s.port p with ack := .absent, sda := .released })
  ∧ ∀ (s : State) (p : Host) (bytes : List Byte) (k bit n : Nat) (scl : Scl), s.inReset = false →
    (s.port p).timedOut = false → (s.port p).txn = .tx → (s.port p).image = some ⟨bytes, k, bit⟩ →
    k ≤ bytes.length → bit ≤ 8 →
    (∃ t, exec (.responseRead p (List.replicate (n + 1) true) scl) s = .next t
      ∧ t = { s with ports := t.ports } ∧ (∀ q, q ≠ p → t.port q = s.port q)
      ∧ t.port p = { s.port p with
          image := some ⟨bytes, min (k + (n + 1)) bytes.length, 0⟩
          timer := match scl with
            | .low => ⟨25, true⟩
            | .high =>
              ⟨if bit = 8 ∧ n = 0 ∧ ((s.port p).ack = .driven ∨ (s.port p).ack = .absent ∧ (s.port p).timer.running = true)
                then (s.port p).timer.remaining else 25, false⟩
          ack := .absent
          sda := match scl with
            | .low => bitOnSda (bytes.getD (k + (n + 1)) 0xFF) 0
            | .high => .released
          sent := (s.port p).sent ++ (bytes.drop k ++ List.replicate (n + 1) 0xFF).take (n + 1) })
    ∧ (∀ more : List Bool, ∃ t, exec (.responseRead p (List.replicate n true ++ false :: more) scl) s = .next t
      ∧ t = { s with ports := t.ports } ∧ (∀ q, q ≠ p → t.port q = s.port q)
      ∧ t.port p = { s.port p with
          txn := .aside, crc := none, image := none, timer := ⟨0, false⟩, ack := .absent, sda := .released
          sent := (s.port p).sent ++ (bytes.drop k ++ List.replicate (n + 1) 0xFF).take (n + 1) })
    ∧ ((s.port p).ack ≠ .absent → ∃ t, exec (.responseRead p [] scl) s = .next t
      ∧ t = { s with ports := t.ports } ∧ (∀ q, q ≠ p → t.port q = s.port q)
      ∧ t.port p = { s.port p with
          timer := match scl with
            | .low => ⟨25, true⟩
            | .high =>
              if (s.port p).ack = .driven then ⟨(s.port p).timer.remaining, false⟩ else (s.port p).timer
          ack := (s.port p).ack.after scl
          sda := match scl with
            | .low => if (s.port p).ack = .decided then .low else bitOnSda (bytes.getD k 0xFF) bit
            | .high => (s.port p).sda })
    ∧ ∀ clocked : Nat, (s.port p).ack = .absent →
      clocked = (if (s.port p).timer.running then bit + 1 else bit) →
      (clocked = 9 → exec (.responseRead p [] scl) s = .next s)
      ∧ (clocked ≤ 8 → ∃ t, exec (.responseRead p [] scl) s = .next t
        ∧ t = { s with ports := t.ports } ∧ (∀ q, q ≠ p → t.port q = s.port q)
        ∧ t.port p = { s.port p with
            image := some ⟨bytes, k, clocked⟩
            timer := match scl with
              | .low => ⟨25, true⟩
              | .high => ⟨(s.port p).timer.remaining, false⟩
            sda := match scl with
              | .low => bitOnSda (bytes.getD k 0xFF) clocked
              | .high => (s.port p).sda })
end

