-- ==== Sys2Proof/Laws/State.lean ====
section
/-! SUPPORT. The record updates of State, one lemma per field each, all true by rfl; and what the tables read after them. -/

namespace Sys2Proof.Machine

section

variable (s : State) (i : Line) (r : LineRec)

@[simp] theorem State.setLine_inReset : (s.setLine i r).inReset = s.inReset := rfl
@[simp] theorem State.setLine_leases : (s.setLine i r).leases = s.leases := rfl
@[simp] theorem State.setLine_leaseCounter : (s.setLine i r).leaseCounter = s.leaseCounter := rfl
@[simp] theorem State.setLine_queue : (s.setLine i r).queue = s.queue := rfl
@[simp] theorem State.setLine_ticketCounter : (s.setLine i r).ticketCounter = s.ticketCounter := rfl
@[simp] theorem State.setLine_lastServed : (s.setLine i r).lastServed = s.lastServed := rfl
@[simp] theorem State.setLine_supervisor : (s.setLine i r).supervisor = s.supervisor := rfl
@[simp] theorem State.setLine_allowed : (s.setLine i r).allowed = s.allowed := rfl
@[simp] theorem State.setLine_external : (s.setLine i r).external = s.external := rfl
@[simp] theorem State.setLine_inputs : (s.setLine i r).inputs = s.inputs := rfl
@[simp] theorem State.setLine_subs : (s.setLine i r).subs = s.subs := rfl
@[simp] theorem State.setLine_arrivals : (s.setLine i r).arrivals = s.arrivals := rfl
@[simp] theorem State.setLine_reports : (s.setLine i r).reports = s.reports := rfl
@[simp] theorem State.setLine_startUp : (s.setLine i r).startUp = s.startUp := rfl
@[simp] theorem State.setLine_queues : (s.setLine i r).queues = s.queues := rfl
@[simp] theorem State.setLine_timestamp : (s.setLine i r).timestamp = s.timestamp := rfl
@[simp] theorem State.setLine_ports : (s.setLine i r).ports = s.ports := rfl
@[simp] theorem State.setLine_busAddress : (s.setLine i r).busAddress = s.busAddress := rfl
@[simp] theorem State.setLine_freeCount : (s.setLine i r).freeCount = s.freeCount := rfl
@[simp] theorem State.setLine_pending : (s.setLine i r).pending = s.pending := rfl

end

section

variable (s : State) (p : Host) (f : PortState → PortState)

@[simp] theorem State.updatePort_inReset : (s.updatePort p f).inReset = s.inReset := rfl
@[simp] theorem State.updatePort_leases : (s.updatePort p f).leases = s.leases := rfl
@[simp] theorem State.updatePort_leaseCounter : (s.updatePort p f).leaseCounter = s.leaseCounter := rfl
@[simp] theorem State.updatePort_queue : (s.updatePort p f).queue = s.queue := rfl
@[simp] theorem State.updatePort_ticketCounter : (s.updatePort p f).ticketCounter = s.ticketCounter := rfl
@[simp] theorem State.updatePort_lastServed : (s.updatePort p f).lastServed = s.lastServed := rfl
@[simp] theorem State.updatePort_supervisor : (s.updatePort p f).supervisor = s.supervisor := rfl
@[simp] theorem State.updatePort_allowed : (s.updatePort p f).allowed = s.allowed := rfl
@[simp] theorem State.updatePort_lines : (s.updatePort p f).lines = s.lines := rfl
@[simp] theorem State.updatePort_external : (s.updatePort p f).external = s.external := rfl
@[simp] theorem State.updatePort_inputs : (s.updatePort p f).inputs = s.inputs := rfl
@[simp] theorem State.updatePort_subs : (s.updatePort p f).subs = s.subs := rfl
@[simp] theorem State.updatePort_arrivals : (s.updatePort p f).arrivals = s.arrivals := rfl
@[simp] theorem State.updatePort_reports : (s.updatePort p f).reports = s.reports := rfl
@[simp] theorem State.updatePort_startUp : (s.updatePort p f).startUp = s.startUp := rfl
@[simp] theorem State.updatePort_queues : (s.updatePort p f).queues = s.queues := rfl
@[simp] theorem State.updatePort_timestamp : (s.updatePort p f).timestamp = s.timestamp := rfl
@[simp] theorem State.updatePort_busAddress : (s.updatePort p f).busAddress = s.busAddress := rfl
@[simp] theorem State.updatePort_freeCount : (s.updatePort p f).freeCount = s.freeCount := rfl
@[simp] theorem State.updatePort_pending : (s.updatePort p f).pending = s.pending := rfl

end

section

variable (s : State) (h : Host) (f : EventQueue → EventQueue)

@[simp] theorem State.updateQueue_inReset : (s.updateQueue h f).inReset = s.inReset := rfl
@[simp] theorem State.updateQueue_leases : (s.updateQueue h f).leases = s.leases := rfl
@[simp] theorem State.updateQueue_leaseCounter : (s.updateQueue h f).leaseCounter = s.leaseCounter := rfl
@[simp] theorem State.updateQueue_queue : (s.updateQueue h f).queue = s.queue := rfl
@[simp] theorem State.updateQueue_ticketCounter : (s.updateQueue h f).ticketCounter = s.ticketCounter := rfl
@[simp] theorem State.updateQueue_lastServed : (s.updateQueue h f).lastServed = s.lastServed := rfl
@[simp] theorem State.updateQueue_supervisor : (s.updateQueue h f).supervisor = s.supervisor := rfl
@[simp] theorem State.updateQueue_allowed : (s.updateQueue h f).allowed = s.allowed := rfl
@[simp] theorem State.updateQueue_lines : (s.updateQueue h f).lines = s.lines := rfl
@[simp] theorem State.updateQueue_external : (s.updateQueue h f).external = s.external := rfl
@[simp] theorem State.updateQueue_inputs : (s.updateQueue h f).inputs = s.inputs := rfl
@[simp] theorem State.updateQueue_subs : (s.updateQueue h f).subs = s.subs := rfl
@[simp] theorem State.updateQueue_arrivals : (s.updateQueue h f).arrivals = s.arrivals := rfl
@[simp] theorem State.updateQueue_reports : (s.updateQueue h f).reports = s.reports := rfl
@[simp] theorem State.updateQueue_startUp : (s.updateQueue h f).startUp = s.startUp := rfl
@[simp] theorem State.updateQueue_timestamp : (s.updateQueue h f).timestamp = s.timestamp := rfl
@[simp] theorem State.updateQueue_ports : (s.updateQueue h f).ports = s.ports := rfl
@[simp] theorem State.updateQueue_busAddress : (s.updateQueue h f).busAddress = s.busAddress := rfl
@[simp] theorem State.updateQueue_freeCount : (s.updateQueue h f).freeCount = s.freeCount := rfl
@[simp] theorem State.updateQueue_pending : (s.updateQueue h f).pending = s.pending := rfl

end

section

variable (s : State) (b : Binding) (i : Line)

@[simp] theorem State.bindLine_inReset : (s.bindLine b i).inReset = s.inReset := rfl
@[simp] theorem State.bindLine_leases : (s.bindLine b i).leases = s.leases := rfl
@[simp] theorem State.bindLine_leaseCounter : (s.bindLine b i).leaseCounter = s.leaseCounter := rfl
@[simp] theorem State.bindLine_queue : (s.bindLine b i).queue = s.queue := rfl
@[simp] theorem State.bindLine_ticketCounter : (s.bindLine b i).ticketCounter = s.ticketCounter := rfl
@[simp] theorem State.bindLine_lastServed : (s.bindLine b i).lastServed = s.lastServed := rfl
@[simp] theorem State.bindLine_supervisor : (s.bindLine b i).supervisor = s.supervisor := rfl
@[simp] theorem State.bindLine_allowed : (s.bindLine b i).allowed = s.allowed := rfl
@[simp] theorem State.bindLine_external : (s.bindLine b i).external = s.external := rfl
@[simp] theorem State.bindLine_inputs : (s.bindLine b i).inputs = s.inputs := rfl
@[simp] theorem State.bindLine_subs : (s.bindLine b i).subs = s.subs := rfl
@[simp] theorem State.bindLine_arrivals : (s.bindLine b i).arrivals = s.arrivals := rfl
@[simp] theorem State.bindLine_reports : (s.bindLine b i).reports = s.reports := rfl
@[simp] theorem State.bindLine_startUp : (s.bindLine b i).startUp = s.startUp := rfl
@[simp] theorem State.bindLine_queues : (s.bindLine b i).queues = s.queues := rfl
@[simp] theorem State.bindLine_timestamp : (s.bindLine b i).timestamp = s.timestamp := rfl
@[simp] theorem State.bindLine_ports : (s.bindLine b i).ports = s.ports := rfl
@[simp] theorem State.bindLine_busAddress : (s.bindLine b i).busAddress = s.busAddress := rfl
@[simp] theorem State.bindLine_freeCount : (s.bindLine b i).freeCount = s.freeCount := rfl
@[simp] theorem State.bindLine_pending : (s.bindLine b i).pending = s.pending := rfl

end

section

variable (s : State) (h : Host) (i : Line)

@[simp] theorem State.rebindLine_inReset : (s.rebindLine h i).inReset = s.inReset := rfl
@[simp] theorem State.rebindLine_leases : (s.rebindLine h i).leases = s.leases := rfl
@[simp] theorem State.rebindLine_leaseCounter : (s.rebindLine h i).leaseCounter = s.leaseCounter := rfl
@[simp] theorem State.rebindLine_queue : (s.rebindLine h i).queue = s.queue := rfl
@[simp] theorem State.rebindLine_ticketCounter : (s.rebindLine h i).ticketCounter = s.ticketCounter := rfl
@[simp] theorem State.rebindLine_lastServed : (s.rebindLine h i).lastServed = s.lastServed := rfl
@[simp] theorem State.rebindLine_supervisor : (s.rebindLine h i).supervisor = s.supervisor := rfl
@[simp] theorem State.rebindLine_allowed : (s.rebindLine h i).allowed = s.allowed := rfl
@[simp] theorem State.rebindLine_external : (s.rebindLine h i).external = s.external := rfl
@[simp] theorem State.rebindLine_inputs : (s.rebindLine h i).inputs = s.inputs := rfl
@[simp] theorem State.rebindLine_subs : (s.rebindLine h i).subs = s.subs := rfl
@[simp] theorem State.rebindLine_arrivals : (s.rebindLine h i).arrivals = s.arrivals := rfl
@[simp] theorem State.rebindLine_reports : (s.rebindLine h i).reports = s.reports := rfl
@[simp] theorem State.rebindLine_startUp : (s.rebindLine h i).startUp = s.startUp := rfl
@[simp] theorem State.rebindLine_queues : (s.rebindLine h i).queues = s.queues := rfl
@[simp] theorem State.rebindLine_timestamp : (s.rebindLine h i).timestamp = s.timestamp := rfl
@[simp] theorem State.rebindLine_ports : (s.rebindLine h i).ports = s.ports := rfl
@[simp] theorem State.rebindLine_busAddress : (s.rebindLine h i).busAddress = s.busAddress := rfl
@[simp] theorem State.rebindLine_freeCount : (s.rebindLine h i).freeCount = s.freeCount := rfl
@[simp] theorem State.rebindLine_pending : (s.rebindLine h i).pending = s.pending := rfl

end

section

variable (s : State) (h : Host) (e : Event)

@[simp] theorem State.raise_inReset : (s.raise h e).inReset = s.inReset := rfl
@[simp] theorem State.raise_leases : (s.raise h e).leases = s.leases := rfl
@[simp] theorem State.raise_leaseCounter : (s.raise h e).leaseCounter = s.leaseCounter := rfl
@[simp] theorem State.raise_queue : (s.raise h e).queue = s.queue := rfl
@[simp] theorem State.raise_ticketCounter : (s.raise h e).ticketCounter = s.ticketCounter := rfl
@[simp] theorem State.raise_lastServed : (s.raise h e).lastServed = s.lastServed := rfl
@[simp] theorem State.raise_supervisor : (s.raise h e).supervisor = s.supervisor := rfl
@[simp] theorem State.raise_allowed : (s.raise h e).allowed = s.allowed := rfl
@[simp] theorem State.raise_lines : (s.raise h e).lines = s.lines := rfl
@[simp] theorem State.raise_external : (s.raise h e).external = s.external := rfl
@[simp] theorem State.raise_inputs : (s.raise h e).inputs = s.inputs := rfl
@[simp] theorem State.raise_subs : (s.raise h e).subs = s.subs := rfl
@[simp] theorem State.raise_arrivals : (s.raise h e).arrivals = s.arrivals := rfl
@[simp] theorem State.raise_reports : (s.raise h e).reports = s.reports := rfl
@[simp] theorem State.raise_startUp : (s.raise h e).startUp = s.startUp := rfl
@[simp] theorem State.raise_timestamp : (s.raise h e).timestamp = s.timestamp := rfl
@[simp] theorem State.raise_ports : (s.raise h e).ports = s.ports := rfl
@[simp] theorem State.raise_busAddress : (s.raise h e).busAddress = s.busAddress := rfl
@[simp] theorem State.raise_freeCount : (s.raise h e).freeCount = s.freeCount := rfl
@[simp] theorem State.raise_pending : (s.raise h e).pending = s.pending := rfl

end

section

variable (s : State) (id : Nat) (f : Lease → Lease)

@[simp] theorem State.updateLease_inReset : (s.updateLease id f).inReset = s.inReset := rfl
@[simp] theorem State.updateLease_leaseCounter : (s.updateLease id f).leaseCounter = s.leaseCounter := rfl
@[simp] theorem State.updateLease_queue : (s.updateLease id f).queue = s.queue := rfl
@[simp] theorem State.updateLease_ticketCounter : (s.updateLease id f).ticketCounter = s.ticketCounter := rfl
@[simp] theorem State.updateLease_lastServed : (s.updateLease id f).lastServed = s.lastServed := rfl
@[simp] theorem State.updateLease_supervisor : (s.updateLease id f).supervisor = s.supervisor := rfl
@[simp] theorem State.updateLease_allowed : (s.updateLease id f).allowed = s.allowed := rfl
@[simp] theorem State.updateLease_lines : (s.updateLease id f).lines = s.lines := rfl
@[simp] theorem State.updateLease_external : (s.updateLease id f).external = s.external := rfl
@[simp] theorem State.updateLease_inputs : (s.updateLease id f).inputs = s.inputs := rfl
@[simp] theorem State.updateLease_subs : (s.updateLease id f).subs = s.subs := rfl
@[simp] theorem State.updateLease_arrivals : (s.updateLease id f).arrivals = s.arrivals := rfl
@[simp] theorem State.updateLease_reports : (s.updateLease id f).reports = s.reports := rfl
@[simp] theorem State.updateLease_startUp : (s.updateLease id f).startUp = s.startUp := rfl
@[simp] theorem State.updateLease_queues : (s.updateLease id f).queues = s.queues := rfl
@[simp] theorem State.updateLease_timestamp : (s.updateLease id f).timestamp = s.timestamp := rfl
@[simp] theorem State.updateLease_ports : (s.updateLease id f).ports = s.ports := rfl
@[simp] theorem State.updateLease_busAddress : (s.updateLease id f).busAddress = s.busAddress := rfl
@[simp] theorem State.updateLease_freeCount : (s.updateLease id f).freeCount = s.freeCount := rfl
@[simp] theorem State.updateLease_pending : (s.updateLease id f).pending = s.pending := rfl

end

section

variable (s : State) (id : Nat)

@[simp] theorem State.freeEntry_inReset : (s.freeEntry id).inReset = s.inReset := rfl
@[simp] theorem State.freeEntry_leaseCounter : (s.freeEntry id).leaseCounter = s.leaseCounter := rfl
@[simp] theorem State.freeEntry_queue : (s.freeEntry id).queue = s.queue := rfl
@[simp] theorem State.freeEntry_ticketCounter : (s.freeEntry id).ticketCounter = s.ticketCounter := rfl
@[simp] theorem State.freeEntry_lastServed : (s.freeEntry id).lastServed = s.lastServed := rfl
@[simp] theorem State.freeEntry_supervisor : (s.freeEntry id).supervisor = s.supervisor := rfl
@[simp] theorem State.freeEntry_allowed : (s.freeEntry id).allowed = s.allowed := rfl
@[simp] theorem State.freeEntry_lines : (s.freeEntry id).lines = s.lines := rfl
@[simp] theorem State.freeEntry_external : (s.freeEntry id).external = s.external := rfl
@[simp] theorem State.freeEntry_inputs : (s.freeEntry id).inputs = s.inputs := rfl
@[simp] theorem State.freeEntry_subs : (s.freeEntry id).subs = s.subs := rfl
@[simp] theorem State.freeEntry_arrivals : (s.freeEntry id).arrivals = s.arrivals := rfl
@[simp] theorem State.freeEntry_reports : (s.freeEntry id).reports = s.reports := rfl
@[simp] theorem State.freeEntry_startUp : (s.freeEntry id).startUp = s.startUp := rfl
@[simp] theorem State.freeEntry_queues : (s.freeEntry id).queues = s.queues := rfl
@[simp] theorem State.freeEntry_timestamp : (s.freeEntry id).timestamp = s.timestamp := rfl
@[simp] theorem State.freeEntry_ports : (s.freeEntry id).ports = s.ports := rfl
@[simp] theorem State.freeEntry_busAddress : (s.freeEntry id).busAddress = s.busAddress := rfl
@[simp] theorem State.freeEntry_freeCount : (s.freeEntry id).freeCount = s.freeCount := rfl
@[simp] theorem State.freeEntry_pending : (s.freeEntry id).pending = s.pending := rfl

end

section

variable (s : State) (n : Host)

@[simp] theorem State.unsubscribeAll_inReset : (s.unsubscribeAll n).inReset = s.inReset := rfl
@[simp] theorem State.unsubscribeAll_leases : (s.unsubscribeAll n).leases = s.leases := rfl
@[simp] theorem State.unsubscribeAll_leaseCounter : (s.unsubscribeAll n).leaseCounter = s.leaseCounter := rfl
@[simp] theorem State.unsubscribeAll_queue : (s.unsubscribeAll n).queue = s.queue := rfl
@[simp] theorem State.unsubscribeAll_ticketCounter : (s.unsubscribeAll n).ticketCounter = s.ticketCounter := rfl
@[simp] theorem State.unsubscribeAll_lastServed : (s.unsubscribeAll n).lastServed = s.lastServed := rfl
@[simp] theorem State.unsubscribeAll_supervisor : (s.unsubscribeAll n).supervisor = s.supervisor := rfl
@[simp] theorem State.unsubscribeAll_allowed : (s.unsubscribeAll n).allowed = s.allowed := rfl
@[simp] theorem State.unsubscribeAll_lines : (s.unsubscribeAll n).lines = s.lines := rfl
@[simp] theorem State.unsubscribeAll_external : (s.unsubscribeAll n).external = s.external := rfl
@[simp] theorem State.unsubscribeAll_inputs : (s.unsubscribeAll n).inputs = s.inputs := rfl
@[simp] theorem State.unsubscribeAll_arrivals : (s.unsubscribeAll n).arrivals = s.arrivals := rfl
@[simp] theorem State.unsubscribeAll_reports : (s.unsubscribeAll n).reports = s.reports := rfl
@[simp] theorem State.unsubscribeAll_startUp : (s.unsubscribeAll n).startUp = s.startUp := rfl
@[simp] theorem State.unsubscribeAll_queues : (s.unsubscribeAll n).queues = s.queues := rfl
@[simp] theorem State.unsubscribeAll_timestamp : (s.unsubscribeAll n).timestamp = s.timestamp := rfl
@[simp] theorem State.unsubscribeAll_ports : (s.unsubscribeAll n).ports = s.ports := rfl
@[simp] theorem State.unsubscribeAll_busAddress : (s.unsubscribeAll n).busAddress = s.busAddress := rfl
@[simp] theorem State.unsubscribeAll_freeCount : (s.unsubscribeAll n).freeCount = s.freeCount := rfl
@[simp] theorem State.unsubscribeAll_pending : (s.unsubscribeAll n).pending = s.pending := rfl

end

/-! ### What the tables read -/

theorem mapTable_getElem {α : Type} {n : Nat} (f : α → α) (t : Vector α n) (i : Fin n) :
    (mapTable f t)[i] = f t[i] := by
  simp [mapTable]

theorem updateHost_getElem {α : Type} (t : Vector α 4) (h k : Host) (f : α → α) :
    (updateHost t h f)[k] = if k = h then f t[h] else t[k] := by
  unfold updateHost
  by_cases hk : k = h
  · subst hk; simp
  · have : ¬ (h.val = k.val) := fun e => hk (Fin.ext e.symm)
    simp [hk, this]

theorem updateLine_getElem {α : Type} (t : Vector α 24) (i j : Line) (f : α → α) :
    (updateLine t i f)[j] = if j = i then f t[i] else t[j] := by
  unfold updateLine
  by_cases hk : j = i
  · subst hk; simp
  · have : ¬ (i.val = j.val) := fun e => hk (Fin.ext e.symm)
    simp [hk, this]

/-- The record of a line after one is replaced. -/
theorem State.line_setLine (s : State) (i j : Line) (r : LineRec) :
    (s.setLine i r).line j = if j = i then r else s.line j := by
  unfold State.line State.setLine
  by_cases hk : j = i
  · subst hk; simp
  · have : ¬ (i.val = j.val) := fun e => hk (Fin.ext e.symm)
    simp [hk, this]

@[simp] theorem State.line_setLine_self (s : State) (i : Line) (r : LineRec) : (s.setLine i r).line i = r := by
  simp [State.line_setLine]

/-- The port engine of a port after one is changed. -/
theorem State.port_updatePort (s : State) (p q : Host) (f : PortState → PortState) :
    (s.updatePort p f).port q = if q = p then f (s.port p) else s.port q :=
  updateHost_getElem s.ports p q f

/-- The event queue of a host after one is changed. -/
theorem State.eventQueue_updateQueue (s : State) (h k : Host) (f : EventQueue → EventQueue) :
    (s.updateQueue h f).eventQueue k = if k = h then f (s.eventQueue h) else s.eventQueue k :=
  updateHost_getElem s.queues h k f

/-- The event queue of a host after a record is raised (R140, R141). -/
theorem State.eventQueue_raise (s : State) (h k : Host) (e : Event) :
    (s.raise h e).eventQueue k = if k = h then EventQueue.arrive s.timestamp e (s.eventQueue h) else s.eventQueue k :=
  State.eventQueue_updateQueue s h k _

/-- Two states with the same records of every line have the same line table. -/
theorem State.lines_ext {s t : State} (h : ∀ i, s.line i = t.line i) : s.lines = t.lines := by
  apply Vector.ext
  intro k hk
  exact h ⟨k, hk⟩

/-- Two states with the same engine at every port have the same ports. -/
theorem State.ports_ext {s t : State} (h : ∀ p, s.port p = t.port p) : s.ports = t.ports := by
  apply Vector.ext
  intro k hk
  exact h ⟨k, hk⟩

/-- Two states with the same event queue of every host have the same queues. -/
theorem State.queues_ext {s t : State} (h : ∀ k, s.eventQueue k = t.eventQueue k) : s.queues = t.queues := by
  apply Vector.ext
  intro k hk
  exact h ⟨k, hk⟩

/-- Every line is one of the list of lines. -/
theorem mem_allLines (i : Line) : i ∈ allLines := by revert i; decide

/-- The list of lines has no repeats. -/
theorem allLines_nodup : allLines.Nodup := by decide

/-- The lines of a mask are those whose bit is set (R180). -/
theorem mem_maskLines (m : LineMask) (i : Line) : i ∈ maskLines m ↔ m.getLsbD i.val = true := by
  simp [maskLines, mem_allLines]

end Sys2Proof.Machine
end

