-- ==== Sys2Proof/Laws/Frames.lean ====
section
/-! SUPPORT. What each shared operation of Machine/Ops.lean leaves alone, said once for all its fields. -/

namespace Sys2Proof.Machine

/-- Only event queues differ. -/
def RecordsOnly (s t : State) : Prop := t = { s with queues := t.queues }

/-- Only line records, arrivals and event queues differ. -/
def LinesOnly (s t : State) : Prop := t = { s with lines := t.lines, arrivals := t.arrivals, queues := t.queues }

/-- Only what a lease controller event may reach differs: the lease table and its counter, the wait queue, the line records,
the arrivals and the event queues. -/
def ControllerOnly (s t : State) : Prop :=
  t = { s with
    leases := t.leases, leaseCounter := t.leaseCounter, queue := t.queue, lines := t.lines, arrivals := t.arrivals,
    queues := t.queues }

theorem RecordsOnly.refl (s : State) : RecordsOnly s s := rfl

theorem LinesOnly.refl (s : State) : LinesOnly s s := rfl

theorem ControllerOnly.refl (s : State) : ControllerOnly s s := rfl

theorem RecordsOnly.trans {s t u : State} (h : RecordsOnly s t) (k : RecordsOnly t u) : RecordsOnly s u := by
  unfold RecordsOnly at *
  rw [h] at k
  exact k

theorem LinesOnly.trans {s t u : State} (h : LinesOnly s t) (k : LinesOnly t u) : LinesOnly s u := by
  unfold LinesOnly at *
  rw [h] at k
  exact k

theorem ControllerOnly.trans {s t u : State} (h : ControllerOnly s t) (k : ControllerOnly t u) :
    ControllerOnly s u := by
  unfold ControllerOnly at *
  rw [h] at k
  exact k

theorem RecordsOnly.linesOnly {s t : State} (h : RecordsOnly s t) : LinesOnly s t := by
  unfold RecordsOnly at h
  rw [h]
  rfl

theorem LinesOnly.controllerOnly {s t : State} (h : LinesOnly s t) : ControllerOnly s t := by
  unfold LinesOnly at h
  rw [h]
  rfl

/-- A fold keeps a reflexive and transitive relation that each of its steps keeps. -/
theorem foldl_rel {α σ : Type} {rel : σ → σ → Prop} (refl : ∀ s, rel s s)
    (trans : ∀ {s t u}, rel s t → rel t u → rel s u) {g : σ → α → σ} (step : ∀ s x, rel s (g s x)) (xs : List α) :
    ∀ s, rel s (xs.foldl g s) := by
  induction xs with
  | nil => exact refl
  | cons x xs ih => exact fun s => trans (step s x) (ih (g s x))

theorem LinesOnly.foldl {α : Type} {g : State → α → State} (step : ∀ s x, LinesOnly s (g s x)) (xs : List α)
    (s : State) : LinesOnly s (xs.foldl g s) :=
  foldl_rel LinesOnly.refl LinesOnly.trans step xs s

theorem RecordsOnly.foldl {α : Type} {g : State → α → State} (step : ∀ s x, RecordsOnly s (g s x)) (xs : List α)
    (s : State) : RecordsOnly s (xs.foldl g s) :=
  foldl_rel RecordsOnly.refl RecordsOnly.trans step xs s

theorem ControllerOnly.foldl {α : Type} {g : State → α → State} (step : ∀ s x, ControllerOnly s (g s x))
    (xs : List α) (s : State) : ControllerOnly s (xs.foldl g s) :=
  foldl_rel ControllerOnly.refl ControllerOnly.trans step xs s

/-! ### Records -/

theorem updateQueue_recordsOnly (h : Host) (f : EventQueue → EventQueue) (s : State) :
    RecordsOnly s (s.updateQueue h f) := rfl

theorem raise_recordsOnly (h : Host) (e : Event) (s : State) : RecordsOnly s (s.raise h e) := rfl

theorem raiseHolder_recordsOnly (b : Option Binding) (e : Event) (s : State) : RecordsOnly s (s.raiseHolder b e) := by
  cases b <;> rfl

/-! ### Lines -/

theorem setLine_linesOnly (i : Line) (r : LineRec) (s : State) : LinesOnly s (s.setLine i r) := rfl

theorem writeLine_linesOnly (i : Line) (r : LineRec) (s : State) : LinesOnly s (s.writeLine i r) := by
  unfold State.writeLine
  dsimp only
  split <;> rfl

theorem driveLine_linesOnly (i : Line) (r : LineRec) (s : State) : LinesOnly s (s.driveLine i r) :=
  writeLine_linesOnly i _ s

theorem faultMirror_linesOnly (source m : Line) (s : State) : LinesOnly s (s.faultMirror source m) := by
  unfold State.faultMirror
  split
  · split
    · exact (driveLine_linesOnly m _ s).trans (raiseHolder_recordsOnly _ _ _).linesOnly
    · exact .refl s
  all_goals exact .refl s

theorem present_linesOnly (source : Line) (s : State) : LinesOnly s (s.present source) := by
  unfold State.present
  split
  · exact .refl s
  · exact .foldl (fun t m => faultMirror_linesOnly source m t) _ s

theorem followMirror_linesOnly (source : Line) (v : Level) (m : Line) (s : State) :
    LinesOnly s (s.followMirror source v m) := by
  unfold State.followMirror
  split
  · split
    · exact driveLine_linesOnly m _ s
    · exact .refl s
  all_goals exact .refl s

theorem driveTest_linesOnly (i : Line) (v : Level) (s : State) : LinesOnly s (s.driveTest i v) := by
  unfold State.driveTest
  split
  · exact (setLine_linesOnly i _ s).trans (raiseHolder_recordsOnly _ _ _).linesOnly
  · exact .refl s

theorem parkLine_linesOnly (e : LineEntry) (s : State) : LinesOnly s (s.parkLine e) := writeLine_linesOnly _ _ s

theorem parkLines_linesOnly (entries : List LineEntry) (s : State) : LinesOnly s (s.parkLines entries) :=
  (LinesOnly.foldl (fun t e => parkLine_linesOnly e t) entries s).trans
    (.foldl (fun t e => present_linesOnly e.line t) entries _)

theorem bindLine_linesOnly (b : Binding) (i : Line) (s : State) : LinesOnly s (s.bindLine b i) := rfl

theorem bindLines_linesOnly (entries : List LineEntry) (b : Binding) (s : State) :
    LinesOnly s (s.bindLines entries b) := .foldl (fun t (e : LineEntry) => bindLine_linesOnly b e.line t) entries s

theorem rebindLine_linesOnly (h : Host) (i : Line) (s : State) : LinesOnly s (s.rebindLine h i) := rfl

theorem rebindLines_linesOnly (entries : List LineEntry) (h : Host) (s : State) :
    LinesOnly s (s.rebindLines entries h) := .foldl (fun t (e : LineEntry) => rebindLine_linesOnly h e.line t) entries s

/-! ### Leases and claims -/

theorem grant_controllerOnly (h : Host) (entries : List LineEntry) (interval : Nat) (s : State) :
    ControllerOnly s (s.grant h entries interval) := by
  have k := bindLines_linesOnly entries ⟨s.nextLeaseId, h⟩ s
  unfold LinesOnly at k
  unfold ControllerOnly State.grant
  dsimp only
  rw [k]

theorem scanGrant_controllerOnly (c : Claim) (s : State) : ControllerOnly s (s.scanGrant c) :=
  (grant_controllerOnly c.host c.entries c.interval s).trans (raise_recordsOnly _ _ _).linesOnly.controllerOnly

theorem scanFrom_controllerOnly (claims : List Claim) :
    ∀ (older : List Claim) (s : State), ControllerOnly s (State.scanFrom older claims s) := by
  induction claims with
  | nil => intro older s; rfl
  | cons c rest ih =>
    intro older s
    unfold State.scanFrom
    split
    · exact (scanGrant_controllerOnly c s).trans (ih older _)
    · exact ih _ s

theorem scan_controllerOnly (s : State) : ControllerOnly s s.scan := scanFrom_controllerOnly s.queue [] s

theorem scanIf_controllerOnly (removed : Bool) (s : State) : ControllerOnly s (s.scanIf removed) := by
  cases removed
  · exact .refl s
  · exact scan_controllerOnly s

theorem removeClaims_controllerOnly (p : Claim → Bool) (reason : Option Reason) (s : State) :
    ControllerOnly s (s.removeClaims p reason) := by
  cases reason with
  | none => rfl
  | some r =>
    have k : ControllerOnly s { s with queue := s.queue.filter fun c => !p c } := rfl
    exact k.trans (RecordsOnly.foldl (fun t (c : Claim) => raise_recordsOnly c.host _ t) _ _).linesOnly.controllerOnly

theorem updateLease_controllerOnly (id : Nat) (f : Lease → Lease) (s : State) :
    ControllerOnly s (s.updateLease id f) := rfl

theorem withdrawOffer_recordsOnly (l : Lease) (cause : EndCause) (s : State) :
    RecordsOnly s (s.withdrawOffer l cause) := by
  unfold State.withdrawOffer
  split <;> rfl

theorem noticeLoss_recordsOnly (l : Lease) (cause : EndCause) (s : State) : RecordsOnly s (s.noticeLoss l cause) := by
  unfold State.noticeLoss
  split <;> rfl

theorem freeEntry_controllerOnly (id : Nat) (s : State) : ControllerOnly s (s.freeEntry id) := rfl

theorem endLease_controllerOnly (l : Lease) (cause : EndCause) (s : State) : ControllerOnly s (s.endLease l cause) :=
  ((((withdrawOffer_recordsOnly l cause s).trans (noticeLoss_recordsOnly l cause _)).linesOnly.trans
    (parkLines_linesOnly l.entries _)).controllerOnly).trans (freeEntry_controllerOnly l.id _)

theorem endLeaseAndScan_controllerOnly (l : Lease) (cause : EndCause) (s : State) :
    ControllerOnly s (s.endLeaseAndScan l cause) := (endLease_controllerOnly l cause s).trans (scan_controllerOnly _)

theorem transfer_controllerOnly (l : Lease) (h : Host) (s : State) : ControllerOnly s (s.transfer l h) :=
  ((updateLease_controllerOnly l.id _ s).trans (rebindLines_linesOnly l.entries h _).controllerOnly).trans
    (raise_recordsOnly _ _ _).linesOnly.controllerOnly

theorem endOfferTo_controllerOnly (n : Host) (l : Lease) (s : State) : ControllerOnly s (s.endOfferTo n l) := by
  unfold State.endOfferTo
  split
  · split
    · exact (updateLease_controllerOnly _ _ s).trans (raise_recordsOnly _ _ _).linesOnly.controllerOnly
    · exact .refl s
  · exact .refl s

theorem unsubscribeAll_controllerOnly (n : Host) {s t : State} (h : ControllerOnly s t) :
    ControllerOnly (s.unsubscribeAll n) (t.unsubscribeAll n) := by
  unfold ControllerOnly at h
  rw [h]
  rfl

/-- A teardown reaches what a lease controller event may reach and the subscriptions, and nothing else (R116). -/
theorem teardown_frame (n : Host) (supervisor : Option Host) (s : State) :
    ControllerOnly (s.unsubscribeAll n) (s.teardown n supervisor) := by
  have claims := removeClaims_controllerOnly (fun c => c.host == n) none s
  have offers := fun (xs : List Lease) (t : State) => ControllerOnly.foldl (fun t l => endOfferTo_controllerOnly n l t) xs t
  have ends := fun (xs : List Lease) (t : State) =>
    ControllerOnly.foldl (fun t l => endLease_controllerOnly l .teardown t) xs t
  exact ((unsubscribeAll_controllerOnly n ((claims.trans (offers _ _)).trans (ends _ _))).trans
    (updateQueue_recordsOnly n _ _).linesOnly.controllerOnly).trans (scan_controllerOnly _)

/-! ### One event -/

/-- What a lease controller event reaches as one event, it reaches too. -/
theorem asOneEvent_controllerOnly {f : State → State} (hf : ∀ s, ControllerOnly s (f s)) (s : State) :
    State.asOneEvent f s = { s with
      leases := (State.asOneEvent f s).leases, leaseCounter := (State.asOneEvent f s).leaseCounter
      queue := (State.asOneEvent f s).queue, lines := (State.asOneEvent f s).lines
      arrivals := (State.asOneEvent f s).arrivals, reports := (State.asOneEvent f s).reports
      queues := (State.asOneEvent f s).queues } := by
  have h := hf { s with arrivals := s.arrivals ++ [[]], reports := s.reports ++ [[]] }
  unfold ControllerOnly at h
  unfold State.asOneEvent
  dsimp only
  rw [h]

/-! ### Owners and the arbiter -/

/-- An owner that takes a command whose body is `r` changes what the body changes, and then places the result. -/
theorem ownerTakes_waiting {s : State} {p : Host} {cmd : Cmd} {tag : Byte} {applies : List Byte → Bool}
    {body : List Byte → State → State × Reply} (h : (s.port p).slot = .pending tag cmd)
    (ha : applies (s.port p).params = true) :
    s.ownerTakes p cmd applies body =
      (body (s.port p).params s).1.updatePort p (PortState.placeResult tag cmd (body (s.port p).params s).2) := by
  simp [State.ownerTakes, State.waitsWith, h, ha]

/-- While no such command waits, an owner takes nothing (R168). -/
theorem ownerTakes_idle {s : State} {p : Host} {cmd : Cmd} {applies : List Byte → Bool}
    {body : List Byte → State → State × Reply} (h : s.waitsWith p cmd applies = none) :
    s.ownerTakes p cmd applies body = s := by
  simp [State.ownerTakes, h]

/-- The lease controller takes the command the arbiter serves, and records its port as last served (R6, R7). -/
theorem leaseControllerTakes_served {s : State} {p : Host} {cmd : Cmd} {tag : Byte}
    {body : List Byte → State → State × Reply} (h : Served s p cmd tag) :
    s.leaseControllerTakes p cmd body =
      (body (s.port p).params { s with lastServed := p }).1.updatePort p
        (PortState.placeResult tag cmd (body (s.port p).params { s with lastServed := p }).2) := by
  unfold State.leaseControllerTakes
  rw [if_pos h.2, ownerTakes_waiting h.1.2 rfl]

/-- The lease controller does not take a command of a port it does not serve next. -/
theorem leaseControllerTakes_other {s : State} {p : Host} {cmd : Cmd} {body : List Byte → State → State × Reply}
    (h : s.arbiterPick ≠ some p) : s.leaseControllerTakes p cmd body = s := by
  simp [State.leaseControllerTakes, h]

/-- While device reset is in force no event is taken (R189). -/
theorem takes_inReset {f : State → State} {s : State} (h : s.inReset = true) : s.takes f = .next s := by
  simp [State.takes, h]

/-- After device reset every event is taken. -/
theorem takes_running {f : State → State} {s : State} (h : s.inReset = false) : s.takes f = .next (f s) := by
  simp [State.takes, h]

/-- A result placed at a port whose slot was PENDING, over a state with the same ports, answers it (R169). -/
theorem answered_placeResult {s t : State} {p : Host} {tag : Byte} {cmd : Cmd} {r : Reply} (h : t.ports = s.ports) :
    Answered p tag cmd r.status r.data s (t.updatePort p (PortState.placeResult tag cmd r)) := by
  have hp : ∀ q, t.port q = s.port q := fun q => by simp [State.port, h]
  refine ⟨fun q hq => ?_, ?_⟩
  · rw [State.port_updatePort, if_neg hq, hp]
  · rw [State.port_updatePort, if_pos rfl, hp]
    rfl

end Sys2Proof.Machine
end

