-- ==== Sys2Proof/Laws/Ops.lean ====
section
/-! SUPPORT. What each shared operation of Machine/Ops.lean, and each part of a transmission, does: its value, said once, so
that no later proof unfolds it. -/

namespace Sys2Proof.Machine

/-! ### Event queues -/

/-- R140: an event that finds room is inserted with the counter's seq and the timestamp, and ATNn# follows (R149). -/
theorem arrive_of_room {q : EventQueue} (now : Timestamp) (e : Event) (h : q.records.length < 32) :
    EventQueue.arrive now e q = { q with
      records := q.records ++ [⟨e, q.counter, now⟩], counter := q.counter + 1, attention := q.enable } := by
  simp [EventQueue.arrive, queueRecords, h, EventQueue.attend]

/-- R141: an event that finds the queue full is dropped and counted, up to 255. -/
theorem arrive_of_full {q : EventQueue} (now : Timestamp) (e : Event) (h : 32 ≤ q.records.length) :
    EventQueue.arrive now e q = { q with lost := min 255 (q.lost + 1) } := by
  have : ¬ q.records.length < queueRecords := by unfold queueRecords; omega
  simp [EventQueue.arrive, this]

/-- R103: a record for a line's holder reaches the holder's queue alone, and none where the line is free. -/
theorem eventQueue_raiseHolder (s : State) (b : Option Binding) (e : Event) (k : Host) :
    (s.raiseHolder b e).eventQueue k =
      if b.map (fun b => b.host) = some k then EventQueue.arrive s.timestamp e (s.eventQueue k) else s.eventQueue k := by
  cases b with
  | none => simp [State.raiseHolder]
  | some b =>
    simp only [State.raiseHolder, State.eventQueue_raise, Option.map_some, Option.some.injEq]
    by_cases h : k = b.host
    · subst h; simp
    · rw [if_neg h, if_neg (Ne.symm h)]

/-! ### Arrivals and reports in flight -/

/-- R66, R128: a change handed on joins the list of the event under way, which is the last. -/
theorem handOn_append (c : LevelChange) (bs : List (List LevelChange)) (b : List LevelChange) :
    handOn c (bs ++ [b]) = bs ++ [b ++ [c]] := by
  induction bs with
  | nil => rfl
  | cons x xs ih =>
    cases xs with
    | nil => simp [handOn]
    | cons y ys => simpa [handOn] using ih

/-- An event that handed nothing on leaves no list, and one that did leaves its list. -/
theorem dropEmptyLast_append (bs : List (List LevelChange)) (b : List LevelChange) :
    dropEmptyLast (bs ++ [b]) = bs ++ (if b = [] then [] else [b]) := by
  induction bs with
  | nil => cases b <;> simp [dropEmptyLast]
  | cons x xs ih =>
    have hne : xs ++ [b] ≠ [] := by simp
    cases x <;> simp [dropEmptyLast, hne, ih]

/-- One event leaves what its steps leave, and the changes it handed on as one list of each kind (R66, R128). -/
theorem asOneEvent_of {f : State → State} {s t : State} {as rs : List LevelChange}
    (h : f { s with arrivals := s.arrivals ++ [[]], reports := s.reports ++ [[]] } = t)
    (ha : t.arrivals = s.arrivals ++ [as]) (hr : t.reports = s.reports ++ [rs]) :
    State.asOneEvent f s = { t with
      arrivals := s.arrivals ++ (if as = [] then [] else [as])
      reports := s.reports ++ (if rs = [] then [] else [rs]) } := by
  unfold State.asOneEvent
  rw [h]
  simp only [ha, hr, dropEmptyLast_append]

/-! ### Lines -/

/-- R62, R63: the settle and the mismatch flag have no part in what a line drives. -/
theorem driven_settled (old new : LineRec) : (LineRec.settled old new).driven = new.driven := by
  unfold LineRec.settled
  split <;> rfl

/-- R65: nor in its raw level. -/
theorem rawLevel_settled (x : External) (old new : LineRec) :
    rawLevel x (LineRec.settled old new) = rawLevel x new := by
  unfold LineRec.settled
  split <;> rfl

/-- R66: the record of a line after a write, and those of the others. -/
theorem line_writeLine (s : State) (i j : Line) (r : LineRec) :
    (s.writeLine i r).line j = if j = i then
        { r with
          raw := rawLevel s.external[i] r
          keeper := if rawLevel s.external[i] r = r.raw then r.keeper else rawLevel s.external[i] r }
      else s.line j := by
  unfold State.writeLine
  dsimp only
  split
  · rename_i h
    rw [State.line_setLine, h]
  · rename_i h
    exact State.line_setLine s i j _

/-- R66: a raw level that moved is handed to the input monitor, and nothing else is. -/
theorem arrivals_writeLine (s : State) (i : Line) (r : LineRec) :
    (s.writeLine i r).arrivals =
      if rawLevel s.external[i] r = r.raw then s.arrivals else handOn ⟨i, rawLevel s.external[i] r⟩ s.arrivals := by
  unfold State.writeLine
  dsimp only
  split <;> rfl

/-- R63, R66, R99, R101: the record of a line after it is driven, and those of the others. -/
theorem line_driveLine {s : State} {i : Line} {r : LineRec} (hr : r.raw = (s.line i).raw)
    (hk : r.keeper = (s.line i).keeper) (j : Line) :
    (s.driveLine i r).line j = if j = i then LineRec.after s.external[i] (s.line i) r else s.line j := by
  unfold State.driveLine
  rw [line_writeLine, rawLevel_settled]
  have kept : (LineRec.settled (s.line i) r).raw = r.raw ∧ (LineRec.settled (s.line i) r).keeper = r.keeper := by
    unfold LineRec.settled
    split <;> exact ⟨rfl, rfl⟩
  rw [kept.1, kept.2, hr, hk]
  by_cases h : r.driven = (s.line i).driven <;> simp [LineRec.settled, LineRec.after, h]

/-- A fold over distinct lines whose step writes the record of its own line, from that record alone. -/
theorem line_foldl {g : State → Line → State} {f : Vector External 24 → Line → LineRec → LineRec}
    (hx : ∀ t i, (g t i).external = t.external)
    (hg : ∀ t i j, (g t i).line j = if j = i then f t.external i (t.line i) else t.line j)
    {lines : List Line} (hn : lines.Nodup) (s : State) (j : Line) :
    (lines.foldl g s).line j = if j ∈ lines then f s.external j (s.line j) else s.line j := by
  induction lines generalizing s with
  | nil => simp
  | cons x xs ih =>
    rw [List.foldl_cons, ih (List.nodup_cons.mp hn).2, hx, hg]
    by_cases h : j = x
    · subst h
      simp [(List.nodup_cons.mp hn).1]
    · simp [h]

/-- R91: what presenting line `source` does at one line: an unfaulted mirror of it faults, any other stands. -/
theorem line_faultMirror (s : State) (source m j : Line) :
    (s.faultMirror source m).line j =
      if j = m ∧ s.followsSource source m then LineRec.after s.external[m] (s.line m) (s.line m).withFault
      else s.line j := by
  unfold State.faultMirror State.followsSource
  split
  · rename_i src invert h
    by_cases e : src = source
    · have f : (s.line m).withFault = { s.line m with function := .mirror src invert true } := by
        simp [LineRec.withFault, h]
      rw [if_pos e, f]
      have : ∀ (b : Option Binding) (ev : Event) (t : State), (t.raiseHolder b ev).line j = t.line j := by
        intro b ev t; cases b <;> rfl
      rw [this, line_driveLine ?_ ?_]
      · simp [e, h]
      · rfl
      · rfl
    · simp [e, h]
  all_goals simp [*]

/-- R88, R91: presenting a line that is OUT faults its unfaulted mirrors; presenting a line that is IN does nothing. -/
theorem line_present (s : State) (source j : Line) :
    (s.present source).line j =
      if (s.line source).direction = .output ∧ s.followsSource source j then
        LineRec.after s.external[j] (s.line j) (s.line j).withFault
      else s.line j := by
  unfold State.present
  split
  · rename_i h
    simp [h]
  · rename_i h
    have := line_foldl (g := fun t m => t.faultMirror source m)
      (f := fun x i r => if (match r.function with
          | .mirror src _ false => src == source
          | .mirror _ _ true | .plain | .pulse _ _ _ => false) = true
        then LineRec.after x[i] r r.withFault else r)
      (fun t i => by have k := faultMirror_linesOnly source i t; unfold LinesOnly at k; rw [k])
      (fun t i k => by
        rw [line_faultMirror]
        by_cases e : k = i
        · subst e
          simp only [true_and, if_true]
          rfl
        · simp [e])
      allLines_nodup s j
    rw [this, if_pos (mem_allLines j), h]
    simp only [true_and]
    rfl

/-- R90, step 1: an unfaulted mirror of the source takes the new level, and any other line stands. -/
theorem line_followMirror (s : State) (source m j : Line) (v : Level) :
    (s.followMirror source v m).line j =
      if j = m ∧ s.followsSource source m then
        LineRec.after s.external[m] (s.line m) { s.line m with level := match (s.line m).function with
          | .mirror _ invert _ => xor v invert
          | .plain => (s.line m).level
          | .pulse _ _ _ => (s.line m).level }
      else s.line j := by
  unfold State.followMirror State.followsSource
  split
  · rename_i src invert h
    by_cases e : src = source
    · rw [if_pos e, line_driveLine ?_ ?_]
      · simp [e, h]
      · rfl
      · rfl
    · simp [e, h]
  all_goals simp [*]

/-- R100: the drive test sets the mismatch flag of a contested line and changes no other line. -/
theorem line_driveTest (s : State) (i j : Line) (v : Level) :
    (s.driveTest i v).line j =
      if j = i ∧ ((s.line i).contested v).isSome then { s.line i with mismatch := true } else s.line j := by
  unfold State.driveTest
  split
  · rename_i d h
    have : ∀ (b : Option Binding) (ev : Event) (t : State), (t.raiseHolder b ev).line j = t.line j := by
      intro b ev t; cases b <;> rfl
    rw [this, State.line_setLine, h]
    simp
  · rename_i h
    simp [h]

/-- R100: the drive test tells the holder of a contested line the driven value, and no other host anything. -/
theorem eventQueue_driveTest (s : State) (i : Line) (v : Level) (k : Host) :
    (s.driveTest i v).eventQueue k =
      match (s.line i).contested v with
      | some d => if (s.line i).holder.map (fun b => b.host) = some k then
          EventQueue.arrive s.timestamp (.mismatch i d) (s.eventQueue k) else s.eventQueue k
      | none => s.eventQueue k := by
  unfold State.driveTest
  rcases (s.line i).contested v with _ | d
  · rfl
  · exact eventQueue_raiseHolder _ _ _ _

/-- R81: a parked line takes the settings of its fallback, is free and has no mismatch; no other line changes. -/
theorem line_parkLine (s : State) (e : LineEntry) (j : Line) :
    (s.parkLine e).line j = if j = e.line then
        { LineRec.after s.external[e.line] (s.line e.line) ((s.line e.line).parkedTo e.fallback) with
          holder := none, mismatch := false }
      else s.line j := by
  unfold State.parkLine
  rw [line_writeLine]
  by_cases h : j = e.line
  · rw [if_pos h, if_pos h]
    have settings : e.fallback.apply (s.line e.line).unfunctioned = (s.line e.line).parkedTo e.fallback := by
      unfold Fallback.apply LineRec.parkedTo LineRec.unfunctioned
      cases e.fallback <;> rcases (s.line e.line).function with _ | ⟨_, _, _ | _⟩ | _ <;> simp
    have levels : ((s.line e.line).parkedTo e.fallback).raw = (s.line e.line).raw
        ∧ ((s.line e.line).parkedTo e.fallback).keeper = (s.line e.line).keeper := by
      unfold LineRec.parkedTo
      cases e.fallback <;> exact ⟨rfl, rfl⟩
    unfold LineRec.parked LineRec.settled LineRec.after
    rw [settings, ← levels.1, ← levels.2]
    split <;> rfl
  · rw [if_neg h, if_neg h]

/-- R68: binding gives the lines of the set their holder and changes nothing else of any line. -/
theorem line_bindLines (entries : List LineEntry) (b : Binding) (s : State) (j : Line) :
    (s.bindLines entries b).line j =
      if coversLine entries j then { s.line j with holder := some b } else s.line j := by
  unfold State.bindLines
  induction entries generalizing s with
  | nil => simp [coversLine]
  | cons e es ih =>
    rw [List.foldl_cons, ih]
    unfold State.bindLine
    rw [State.line_setLine]
    by_cases h : j = e.line
    · subst h
      simp [coversLine]
    · have : (e.line == j) = false := by simp [Ne.symm h]
      simp [coversLine, h, this]

/-- R69: rebinding changes the holder host of the lines of the set that are held, and nothing else of any line. -/
theorem line_rebindLines (entries : List LineEntry) (h : Host) (s : State) (j : Line) :
    (s.rebindLines entries h).line j =
      if coversLine entries j then
        { s.line j with holder := (s.line j).holder.map fun b => { b with host := h } }
      else s.line j := by
  unfold State.rebindLines
  induction entries generalizing s with
  | nil => simp [coversLine]
  | cons e es ih =>
    rw [List.foldl_cons, ih]
    unfold State.rebindLine
    rw [State.line_setLine]
    by_cases k : j = e.line
    · subst k
      cases (s.line e.line).holder <;> simp [coversLine]
    · have : (e.line == j) = false := by simp [Ne.symm k]
      simp [coversLine, k, this]

/-! ### Numbers, grants and the scan -/

/-- R4, R31: the number after a number from 1 to 255 is from 1 to 255. -/
theorem nextNumber_range {n : Nat} (h : n ≤ 255) : 1 ≤ nextNumber n ∧ nextNumber n ≤ 255 := by
  unfold nextNumber
  split <;> omega

/-- R4, R31: an assigned number is from 1 to 255. -/
theorem assignNumber_range {used : List Nat} {fuel n : Nat} (h : 1 ≤ n ∧ n ≤ 255) :
    1 ≤ assignNumber used fuel n ∧ assignNumber used fuel n ≤ 255 := by
  induction fuel generalizing n with
  | zero => exact h
  | succ k ih =>
    unfold assignNumber
    split
    · exact ih (nextNumber_range h.2)
    · exact h

/-- R1: putting a lease into the table adds it and keeps every other. -/
theorem insertLease_perm (l : Lease) (ls : List Lease) : (insertLease l ls).Perm (l :: ls) := by
  induction ls with
  | nil => exact .refl _
  | cons m rest ih =>
    unfold insertLease
    split
    · exact .refl _
    · exact (ih.cons m).trans (.swap l m rest)

/-- R1: the table stays in ascending order of lease id. -/
theorem insertLease_sorted {l : Lease} {ls : List Lease} (hs : ls.Pairwise fun a b => a.id < b.id)
    (hl : ∀ m ∈ ls, m.id ≠ l.id) : (insertLease l ls).Pairwise fun a b => a.id < b.id := by
  induction ls with
  | nil => simp [insertLease]
  | cons m rest ih =>
    have ⟨hm, hr⟩ := List.pairwise_cons.mp hs
    unfold insertLease
    split
    · rename_i h
      refine List.pairwise_cons.mpr ⟨fun a ha => ?_, hs⟩
      rcases List.mem_cons.mp ha with rfl | ha
      · exact h
      · exact Nat.lt_trans h (hm a ha)
    · rename_i h
      have hne := hl m (by simp)
      refine List.pairwise_cons.mpr ⟨fun a ha => ?_, ih hr fun x hx => hl x (by simp [hx])⟩
      rcases List.mem_cons.mp ((insertLease_perm l rest).mem_iff.mp ha) with rfl | ha
      · omega
      · exact hm a ha

/-- R14: the leases after a grant are those before it and the new one. -/
theorem grant_leases (h : Host) (entries : List LineEntry) (interval : Nat) (s : State) :
    (s.grant h entries interval).leases.Perm
      (⟨s.nextLeaseId, h, entries, interval, renewStart interval, none⟩ :: s.leases) := insertLease_perm _ _

/-- R14, R68: the lines after a grant: those of the set are bound to the new lease. -/
theorem line_grant (h : Host) (entries : List LineEntry) (interval : Nat) (s : State) (j : Line) :
    (s.grant h entries interval).line j =
      if coversLine entries j then { s.line j with holder := some ⟨s.nextLeaseId, h⟩ } else s.line j :=
  line_bindLines entries ⟨s.nextLeaseId, h⟩ s j

/-- A grant leaves the wait queue. -/
theorem grant_queue (h : Host) (entries : List LineEntry) (interval : Nat) (s : State) :
    (s.grant h entries interval).queue = s.queue := by
  have k := bindLines_linesOnly entries ⟨s.nextLeaseId, h⟩ s
  unfold LinesOnly at k
  unfold State.grant
  dsimp only
  rw [k]

/-- Binding lines reaches no event queue and not the time. -/
theorem bindLines_queues (entries : List LineEntry) (b : Binding) (s : State) :
    (s.bindLines entries b).queues = s.queues ∧ (s.bindLines entries b).timestamp = s.timestamp := by
  unfold State.bindLines
  induction entries generalizing s with
  | nil => exact ⟨rfl, rfl⟩
  | cons e es ih => exact ih (s.bindLine b e.line)

/-- R35: a grant by the scan tells the claim's host its ticket and its new lease id, and no other host anything. -/
theorem eventQueue_scanGrant (c : Claim) (s : State) (h : Host) :
    (s.scanGrant c).eventQueue h = if h = c.host then
      EventQueue.arrive s.timestamp (.granted c.ticket s.nextLeaseId) (s.eventQueue h) else s.eventQueue h := by
  have bound := bindLines_queues c.entries ⟨s.nextLeaseId, c.host⟩ s
  have queue : ∀ k, (s.grant c.host c.entries c.interval).eventQueue k = s.eventQueue k := fun k =>
    congrArg (fun q : Vector EventQueue 4 => q[k]) bound.1
  have time : (s.grant c.host c.entries c.interval).timestamp = s.timestamp := bound.2
  unfold State.scanGrant
  rw [State.eventQueue_raise, queue, queue, time]
  by_cases k : h = c.host
  · subst k; simp
  · simp [k]

/-- A grant takes no time. -/
theorem timestamp_scanGrant (c : Claim) (s : State) : (s.scanGrant c).timestamp = s.timestamp :=
  (bindLines_queues c.entries ⟨s.nextLeaseId, c.host⟩ s).2

/-- R35: a grant by the scan leaves the leases and the lease of the claim, with the next id. -/
theorem scanGrant_leases (c : Claim) (s : State) :
    (s.scanGrant c).leases.Perm (grantedLease (c, s.nextLeaseId) :: s.leases) :=
  grant_leases c.host c.entries c.interval s

@[simp] theorem Pass.left_nil : Pass.left [] = [] := rfl

@[simp] theorem Pass.grants_nil : Pass.grants [] = [] := rfl

@[simp] theorem Pass.left_none (c : Claim) (pass : Pass) : Pass.left ((c, none) :: pass) = c :: pass.left := rfl

@[simp] theorem Pass.left_some (c : Claim) (id : Nat) (pass : Pass) :
    Pass.left ((c, some id) :: pass) = pass.left := rfl

@[simp] theorem Pass.grants_none (c : Claim) (pass : Pass) : Pass.grants ((c, none) :: pass) = pass.grants := rfl

@[simp] theorem Pass.grants_some (c : Claim) (id : Nat) (pass : Pass) :
    Pass.grants ((c, some id) :: pass) = (c, id) :: pass.grants := rfl

/-- The claims that older parts of the pass left, as a pass that granted none of them. -/
def Pass.ofLeft (older : List Claim) : Pass := older.map fun c => (c, none)

@[simp] theorem Pass.left_ofLeft_append (older : List Claim) (pass : Pass) :
    Pass.left (Pass.ofLeft older ++ pass) = older ++ pass.left := by
  induction older with
  | nil => rfl
  | cons c rest ih => exact congrArg (c :: ·) ih

@[simp] theorem Pass.grants_ofLeft_append (older : List Claim) (pass : Pass) :
    Pass.grants (Pass.ofLeft older ++ pass) = pass.grants := by
  induction older with
  | nil => rfl
  | cons c rest ih => exact ih

/-- R34: what the scan tests at a claim, with the claims `older` left before it. -/
theorem scanGrants_iff (s : State) (older : List Claim) (c : Claim) :
    s.scanGrants older c = true ↔
      (∀ e ∈ c.entries, ∀ l ∈ s.leases, coversLine l.entries e.line = false)
        ∧ (∀ d ∈ older, sharesLine c.entries d.entries = false) ∧ s.leases.length < 16 := by
  have entry : s.hasEntry = true ↔ s.leases.length < 16 := decide_eq_true_iff
  simp [State.scanGrants, State.allFree, State.lineHeld, unclaimed, entry, and_assoc]

/-- R34: the conditions at a claim are those the scan tests where the leases so far are those of `s`. -/
theorem grantableAfter_ofLeft (s : State) (older : List Claim) (c : Claim) :
    GrantableAfter s.leases (Pass.ofLeft older ++ []) c ↔ s.scanGrants older c = true := by
  rw [scanGrants_iff]
  unfold GrantableAfter
  simp only [Pass.left_ofLeft_append, Pass.grants_ofLeft_append]
  simp

/-- R34: a lease granted earlier in the pass counts at every later claim as a lease that was kept does. -/
theorem grantableAfter_grant {kept kept' : List Lease} {g : Claim × Nat} (h : kept'.Perm (grantedLease g :: kept))
    (older : List Claim) (before : Pass) (c : Claim) :
    GrantableAfter kept' (Pass.ofLeft older ++ before) c
      ↔ GrantableAfter kept (Pass.ofLeft older ++ (g.1, some g.2) :: before) c := by
  have hm : ∀ l, l ∈ kept' ++ before.grants.map grantedLease
      ↔ l ∈ kept ++ ((g :: before.grants).map grantedLease) := fun l => by
    simp [h.mem_iff, or_left_comm, or_assoc]
  have hn : kept'.length = kept.length + 1 := by simpa using h.length_eq
  unfold GrantableAfter
  simp only [Pass.left_ofLeft_append, Pass.grants_ofLeft_append, Pass.left_some, Pass.grants_some]
  simp only [hm, hn, List.length_cons]
  rw [show kept.length + 1 + before.grants.length = kept.length + (before.grants.length + 1) by omega]

/-- R4: an assigned number depends on which numbers are in use, not on their order. -/
theorem assignNumber_congr {used used' : List Nat} (h : ∀ n, n ∈ used ↔ n ∈ used') (fuel n : Nat) :
    assignNumber used fuel n = assignNumber used' fuel n := by
  induction fuel generalizing n with
  | zero => rfl
  | succ k ih => simp [assignNumber, h, ih]

/-- R4: so do the ids that several grants take. -/
theorem grantIds_congr {used used' : List Nat} (h : ∀ n, n ∈ used ↔ n ∈ used') (k n : Nat) :
    grantIds k used n = grantIds k used' n := by
  induction k generalizing used used' n with
  | zero => rfl
  | succ k ih =>
    unfold grantIds
    rw [assignNumber_congr h]
    exact congrArg _ (ih (by simp [h]) _)

/-- R34, R35: what the pass makes of the claims it has not tested yet, with the claims `older` left before them. -/
theorem scanFrom_spec (claims : List Claim) :
    ∀ (older : List Claim) (s : State), ∃ pass : Pass,
      pass.map (fun x => x.1) = claims
        ∧ (State.scanFrom older claims s).queue = older ++ pass.left
        ∧ (∀ before c made after, pass = before ++ (c, made) :: after →
            (made.isSome = true ↔ GrantableAfter s.leases (Pass.ofLeft older ++ before) c))
        ∧ (State.scanFrom older claims s).leases.Perm (s.leases ++ pass.grants.map grantedLease)
        ∧ (pass.grants.map fun g => g.2) = grantIds pass.grants.length (s.leases.map fun l => l.id) s.leaseCounter
        ∧ (State.scanFrom older claims s).leaseCounter
            = (pass.grants.getLast?.map fun g => nextNumber g.2).getD s.leaseCounter
        ∧ (∀ j, (State.scanFrom older claims s).line j =
            { s.line j with holder := holderAfter pass.grants j (s.line j).holder })
        ∧ ∀ h, (State.scanFrom older claims s).eventQueue h =
            ((pass.grants.filter fun g => g.1.host == h).map fun g => Event.granted g.1.ticket g.2).foldl
              (fun q e => EventQueue.arrive s.timestamp e q) (s.eventQueue h) := by
  induction claims with
  | nil =>
    exact fun older s => ⟨[], rfl, by simp [State.scanFrom], by simp, by simp [State.scanFrom], rfl, rfl, fun _ => rfl,
      fun _ => rfl⟩
  | cons c rest ih =>
    intro older s
    unfold State.scanFrom
    split
    · rename_i hc
      obtain ⟨pass, hm, hq, hp, hl, hi, hn, hj, he⟩ := ih older (s.scanGrant c)
      have perm := scanGrant_leases c s
      have step : ∀ j, (s.scanGrant c).line j = (s.grant c.host c.entries c.interval).line j := fun _ => rfl
      have counter : (s.scanGrant c).leaseCounter = nextNumber s.nextLeaseId := rfl
      refine ⟨(c, some s.nextLeaseId) :: pass, by simp [hm], hq, ?_, ?_, ?_, ?_, fun j => ?_, fun h => ?_⟩
      · intro before d made after e
        cases before with
        | nil =>
          cases e
          exact ⟨fun _ => (grantableAfter_ofLeft s older c).mpr hc, fun _ => rfl⟩
        | cons x before =>
          cases e
          rw [hp before d made after rfl]
          exact grantableAfter_grant perm older before d
      · simpa using hl.trans ((perm.append_right _).trans List.perm_middle.symm)
      · simp only [Pass.grants_some, List.map_cons, List.length_cons, hi, counter]
        exact congrArg _ (grantIds_congr (fun n => (perm.map fun l => l.id).mem_iff) _ _)
      · rw [hn, counter]
        rw [Pass.grants_some]
        rcases pass.grants with _ | ⟨g, gs⟩ <;> simp [List.getLast?_cons]
      · rw [hj, step, line_grant]
        by_cases k : coversLine c.entries j = true
        · have none : pass.grants.find? (fun g => coversLine g.1.entries j) = none := by
            rw [List.find?_eq_none]
            intro g hg hcov
            obtain ⟨x, hx, hgx⟩ := List.mem_filterMap.mp hg
            obtain ⟨before, after, hs⟩ := List.append_of_mem hx
            obtain ⟨id, hid, rfl⟩ := Option.map_eq_some_iff.mp hgx
            have grantable := (hp before x.1 x.2 after hs).mp (by simp [hid])
            obtain ⟨e, he, ej⟩ := List.any_eq_true.mp hcov
            have free := grantable.1 e he (grantedLease (c, s.nextLeaseId)) (by simp [perm.mem_iff])
            rw [show e.line = j by simpa using ej] at free
            exact absurd k (by simpa [grantedLease] using free)
          simp [holderAfter, k, none]
        · simp [holderAfter, k]
      · rw [he, eventQueue_scanGrant, timestamp_scanGrant]
        by_cases k : h = c.host
        · subst k
          simp
        · have : (c.host == h) = false := by simp [Ne.symm k]
          simp [k, this]
    · rename_i hc
      obtain ⟨pass, hm, hq, hp, hrest⟩ := ih (older ++ [c]) s
      have left : Pass.ofLeft (older ++ [c]) = Pass.ofLeft older ++ [(c, none)] := by simp [Pass.ofLeft]
      refine ⟨(c, none) :: pass, by simp [hm], by simpa using hq, ?_, hrest⟩
      intro before d made after e
      cases before with
      | nil =>
        cases e
        exact ⟨fun h => absurd h (by simp), fun h => absurd ((grantableAfter_ofLeft s older c).mp h) hc⟩
      | cons x before =>
        cases e
        simpa [left] using hp before d made after rfl

/-- A list of claims holds none that a scan could grant exactly when each fails behind the claims before it. -/
theorem noneGrantable_iff (s : State) (claims : List Claim) : ∀ older : List Claim,
    s.noneGrantable older claims = true ↔
      ∀ before c after, claims = before ++ c :: after → s.scanGrants (older ++ before) c = false := by
  induction claims with
  | nil => simp [State.noneGrantable]
  | cons c rest ih =>
    intro older
    simp only [State.noneGrantable, Bool.and_eq_true, ih, Bool.not_eq_true']
    constructor
    · rintro ⟨h, k⟩ before d after e
      cases before with
      | nil => cases e; simpa using h
      | cons x before => cases e; simpa using k before d after rfl
    · exact fun h => ⟨by simpa using h [] c rest rfl, fun before d after e => by
        simpa using h (c :: before) d after (by simp [e])⟩

/-- R34: a claim that a pass left stands in the pass, behind those it left before. -/
theorem Pass.left_eq_append {pass : Pass} {before after : List Claim} {c : Claim} (h : pass.left = before ++ c :: after) :
    ∃ front back, pass = front ++ (c, none) :: back ∧ Pass.left front = before := by
  induction pass generalizing before with
  | nil => simp at h
  | cons x rest ih =>
    obtain ⟨d, _ | id⟩ := x
    · rw [Pass.left_none] at h
      cases before with
      | nil => cases h; exact ⟨[], rest, rfl, rfl⟩
      | cons y before =>
        obtain ⟨rfl, k⟩ := List.cons.inj h
        obtain ⟨front, back, rfl, rfl⟩ := ih k
        exact ⟨(d, none) :: front, back, rfl, rfl⟩
    · obtain ⟨front, back, rfl, rfl⟩ := ih h
      exact ⟨(d, some id) :: front, back, rfl, rfl⟩

/-- R36: one pass suffices: no claim that it left could be granted after it. -/
theorem noGrantable_of_pass {kept : List Lease} {pass : Pass} {t : State} (hq : t.queue = pass.left)
    (hp : ∀ before c made after, pass = before ++ (c, made) :: after →
      (made.isSome = true ↔ GrantableAfter kept before c))
    (hl : t.leases.Perm (kept ++ pass.grants.map grantedLease)) : NoGrantableLaw t := by
  unfold NoGrantableLaw
  rw [noneGrantable_iff, hq]
  intro before c after e
  obtain ⟨front, back, hf, rfl⟩ := Pass.left_eq_append e
  by_contra h
  rw [Bool.not_eq_false, scanGrants_iff] at h
  obtain ⟨free, unblocked, entry⟩ := h
  have grants : pass.grants = front.grants ++ Pass.grants back := by
    rw [hf]
    simp [Pass.grants, List.filterMap_append]
  have grantable : GrantableAfter kept front c := by
    refine ⟨fun e he l hm => free e he l ?_, by simpa using unblocked, ?_⟩
    · rw [hl.mem_iff, grants, List.map_append, ← List.append_assoc]
      exact List.mem_append_left _ hm
    · have := hl.length_eq
      rw [grants] at this
      simp only [List.length_append, List.length_map] at this
      omega
  exact absurd ((hp front c none back hf).mpr grantable) (by simp)

/-- R33 to R36: all that the scan does: what it leaves of the leases and the claims, the bindings of the lines, and the records
it sends. -/
theorem scan_spec (s : State) : ∃ grants : Grants,
    Scanned s.leases s.queue grants s s.scan
      ∧ (∀ j, s.scan.line j = { s.line j with holder := holderAfter grants j (s.line j).holder })
      ∧ ∀ h, ReceivedThenGrants h [] grants s s.scan := by
  obtain ⟨pass, hm, hq, hp, hl, hi, hn, hj, he⟩ := scanFrom_spec s.queue [] s
  have hp : ∀ before c made after, pass = before ++ (c, made) :: after →
      (made.isSome = true ↔ GrantableAfter s.leases before c) := hp
  have hq : s.scan.queue = pass.left := hq
  have time : s.scan.timestamp = s.timestamp := by
    have k := scan_controllerOnly s
    unfold ControllerOnly at k
    rw [k]
  refine ⟨pass.grants, ⟨⟨pass, hm, hq, rfl, hp⟩, hl, hi, hn, noGrantable_of_pass hq hp hl⟩, hj, fun h => ?_⟩
  unfold ReceivedThenGrants Received
  rw [time]
  exact he h

/-- R37, R44: the claims that satisfy the test leave the queue, and the others keep their order. -/
theorem removeClaims_queue (p : Claim → Bool) (reason : Option Reason) (s : State) :
    (s.removeClaims p reason).queue = s.queue.filter fun c => !p c := by
  cases reason with
  | none => rfl
  | some r =>
    have k := RecordsOnly.foldl (fun t (c : Claim) => raise_recordsOnly c.host (.claimLapsed c.ticket r) t)
      (s.queue.filter p) { s with queue := s.queue.filter fun c => !p c }
    unfold RecordsOnly at k
    unfold State.removeClaims
    dsimp only
    rw [k]

/-- Records raised one after another reach each host in their order. -/
theorem eventQueue_foldl_raise {α : Type} (host : α → Host) (event : α → Event) (xs : List α) (s : State) (k : Host) :
    (xs.foldl (fun t x => t.raise (host x) (event x)) s).eventQueue k =
      ((xs.filter fun x => host x == k).map event).foldl (fun q e => EventQueue.arrive s.timestamp e q)
        (s.eventQueue k) := by
  induction xs generalizing s with
  | nil => rfl
  | cons x xs ih =>
    rw [List.foldl_cons, ih, State.eventQueue_raise]
    by_cases h : k = host x
    · subst h
      simp
    · have : (host x == k) = false := by simp [Ne.symm h]
      simp [h, this]

/-- R37, R44: a removal with a reason tells the host of each removed claim, in queue order. -/
theorem eventQueue_removeClaims (p : Claim → Bool) (r : Reason) (s : State) (k : Host) :
    (s.removeClaims p (some r)).eventQueue k =
      (((s.queue.filter p).filter fun c => c.host == k).map fun c => Event.claimLapsed c.ticket r).foldl
        (fun q e => EventQueue.arrive s.timestamp e q) (s.eventQueue k) :=
  eventQueue_foldl_raise (fun c : Claim => c.host) (fun c => .claimLapsed c.ticket r) (s.queue.filter p)
    { s with queue := s.queue.filter fun c => !p c } k

/-! ### Leases: updates and ends -/

/-- The lease with the id is changed, and every other stands. -/
theorem updateLease_leases (id : Nat) (f : Lease → Lease) (s : State) :
    (s.updateLease id f).leases = s.leases.map fun l => if l.id = id then f l else l := rfl

/-- R17, steps 3 and 5: the leases after a lease end, before the scan. -/
theorem endLease_leases (l : Lease) (cause : EndCause) (s : State) :
    (s.endLease l cause).leases = s.leases.filter fun m => m.id != l.id := by
  have k := ((withdrawOffer_recordsOnly l cause s).trans (noticeLoss_recordsOnly l cause _)).linesOnly.trans
    (parkLines_linesOnly l.entries _)
  unfold LinesOnly at k
  unfold State.endLease State.freeEntry
  dsimp only
  rw [k]

/-- R17: a lease end leaves the wait queue to the scan. -/
theorem endLease_queue (l : Lease) (cause : EndCause) (s : State) : (s.endLease l cause).queue = s.queue := by
  have k := ((withdrawOffer_recordsOnly l cause s).trans (noticeLoss_recordsOnly l cause _)).linesOnly.trans
    (parkLines_linesOnly l.entries _)
  unfold LinesOnly at k
  unfold State.endLease State.freeEntry
  dsimp only
  rw [k]

/-! ### The bounds of two ticks -/

/-- R168: a port waits for an owner exactly while a command of that owner is PENDING. -/
theorem waitsFor_iff (o : Owner) (q : PortState) :
    q.waitsFor o = true ↔ ∃ tag cmd, q.slot = .pending tag cmd ∧ cmd.owner = o := by
  unfold PortState.waitsFor
  split <;> rename_i h
  · simp [h]
  all_goals simp [h]

/-- R70, R123: a tick is put off exactly while some command of the owner has let one pass. -/
theorem overdue_iff (o : Owner) (s : State) :
    s.overdue o = true ↔ ∃ p, (s.port p).waitsFor o = true ∧ (s.port p).ticked = true := by
  unfold State.overdue
  rw [List.any_eq_true]
  constructor
  · rintro ⟨p, -, h⟩
    exact ⟨p, by simpa using h⟩
  · rintro ⟨p, h⟩
    exact ⟨p, by unfold allHosts; fin_cases p <;> simp, by simpa using h⟩

/-- R70, R123: a tick is noted at each port whose command waits for the owner, and nothing else of a port changes. -/
theorem port_tickWaits (o : Owner) (s : State) (p : Host) :
    (s.tickWaits o).port p = { s.port p with ticked := (s.port p).ticked || (s.port p).waitsFor o } := by
  simp [State.tickWaits, State.port, mapTable, Vector.getElem_mk]

/-! ### Finding a lease or a claim -/

/-- R1: a lease found by its id is live and has the id. -/
theorem findLease_some {s : State} {id : Nat} {l : Lease} (h : s.findLease id = some l) : l ∈ s.leases ∧ l.id = id := by
  unfold State.findLease at h
  exact ⟨List.mem_of_find?_eq_some h, by simpa using List.find?_some h⟩

/-- R1, R4: in a table whose ids are distinct, a live lease is found by its id. -/
theorem findLease_of_mem {s : State} {l : Lease} (hs : s.leases.Pairwise fun a b => a.id < b.id) (h : l ∈ s.leases) :
    s.findLease l.id = some l := by
  unfold State.findLease
  revert hs h
  generalize s.leases = ls
  intro hs h
  induction ls with
  | nil => simp at h
  | cons m rest ih =>
    have ⟨hm, hr⟩ := List.pairwise_cons.mp hs
    rcases List.mem_cons.mp h with rfl | h
    · simp
    · have : m.id ≠ l.id := Nat.ne_of_lt (hm l h)
      simpa [this] using ih hr h

/-- R9, R50: no lease is found by an id that names none. -/
theorem findLease_none {s : State} {id : Nat} (h : ∀ l ∈ s.leases, l.id ≠ id) : s.findLease id = none := by
  unfold State.findLease
  simpa using h

/-- R28: a claim found by its ticket waits and has the ticket. -/
theorem findClaim_some {s : State} {ticket : Nat} {c : Claim} (h : s.findClaim ticket = some c) :
    c ∈ s.queue ∧ c.ticket = ticket := by
  unfold State.findClaim at h
  exact ⟨List.mem_of_find?_eq_some h, by simpa using List.find?_some h⟩

/-- R9: the three answers of the holder check of the lease controller. -/
theorem heldLease_cases (s : State) (caller : Host) (id : Nat) :
    (s.findLease id = none ∧ s.heldLease caller id = .error .noLease)
      ∨ ∃ l, s.findLease id = some l
        ∧ (l.holder ≠ caller ∧ s.heldLease caller id = .error .notHolder
          ∨ l.holder = caller ∧ s.heldLease caller id = .ok l) := by
  unfold State.heldLease
  cases h : s.findLease id with
  | none => exact .inl ⟨rfl, rfl⟩
  | some l =>
    refine .inr ⟨l, rfl, ?_⟩
    by_cases e : l.holder = caller
    · exact .inr ⟨e, by simp [e]⟩
    · exact .inl ⟨e, by simp [e]⟩

/-- R50, R53: the lease an offer check finds is live, has the id and is offered to the caller. -/
theorem offeredLease_some {s : State} {caller : Host} {id : Nat} {l : Lease}
    (h : s.offeredLease caller id = some l) :
    l ∈ s.leases ∧ l.id = id ∧ l.offer.map (fun o => o.target) = some caller := by
  unfold State.offeredLease at h
  split at h
  · cases h
  · rename_i m hm
    split at h
    · rename_i o ho
      split at h
      · rename_i ht
        cases h
        exact ⟨(findLease_some hm).1, (findLease_some hm).2, by simp [ho, ht]⟩
      · cases h
    · cases h

/-! ### A transmission -/

/-- R158: a bit of a byte on SDA. -/
theorem sentBit_of_lt {b : Byte} {k : Nat} (h : k < 8) : sentBit b k = if b.getMsbD k then .released else .low := by
  cases hb : b.getMsbD k <;> simp [sentBit, h, hb]

/-- R158: after the eighth bit SDA is released. -/
theorem sentBit_of_le {b : Byte} {k : Nat} (h : 8 ≤ k) : sentBit b k = .released := by
  simp [sentBit, Nat.not_lt.mpr h]

/-- R172: the bytes from a position on, with filler after them, one byte at a time. -/
theorem take_filled (bytes : List Byte) {k : Nat} (hk : k ≤ bytes.length) (n : Nat) :
    (bytes.drop k ++ List.replicate (n + 1) (0xFF : Byte)).take (n + 1)
      = bytes.getD k 0xFF :: (bytes.drop (min (k + 1) bytes.length) ++ List.replicate n 0xFF).take n := by
  rcases Nat.lt_or_eq_of_le hk with h | rfl
  · rw [List.drop_eq_getElem_cons h, Nat.min_eq_left h, List.cons_append, List.take_succ_cons, List.replicate_succ',
      ← List.append_assoc, List.take_append_of_le_length (by simp), List.getD_eq_getElem _ _ h]
  · simp [List.replicate_succ]

/-- R172: a byte the host acknowledges. -/
theorem txByte_ack {q : PortState} {bytes : List Byte} {k bit : Nat} (hq : q.txn = .tx)
    (hi : q.image = some ⟨bytes, k, bit⟩) :
    q.txByte true = { q with
      image := some ⟨bytes, min (k + 1) bytes.length, 0⟩, timer := q.answerTimer ⟨bytes, k, bit⟩, ack := .absent
      sda := .released, sent := q.sent ++ [bytes.getD k 0xFF] } := by
  simp [PortState.txByte, hq, hi, Image.advance, Image.current]

/-- R172: bytes the host acknowledges: the image in order, then filler, and TX goes on at the first bit of the next byte. -/
theorem txBytes_acks {q : PortState} {bytes : List Byte} {k bit : Nat} (hq : q.txn = .tx)
    (hi : q.image = some ⟨bytes, k, bit⟩) (hk : k ≤ bytes.length) (n : Nat) :
    (List.replicate (n + 1) true).foldl PortState.txByte q = { q with
      image := some ⟨bytes, min (k + (n + 1)) bytes.length, 0⟩
      timer := if n = 0 then q.answerTimer ⟨bytes, k, bit⟩ else BusTimer.entry
      ack := .absent, sda := .released
      sent := q.sent ++ (bytes.drop k ++ List.replicate (n + 1) 0xFF).take (n + 1) } := by
  induction n generalizing q k bit with
  | zero => rw [take_filled bytes hk]; simp [txByte_ack hq hi]
  | succ n ih =>
    have e : min (min (k + 1) bytes.length + (n + 1)) bytes.length = min (k + (n + 1 + 1)) bytes.length := by omega
    rw [List.replicate_succ, List.foldl_cons, txByte_ack hq hi, take_filled bytes hk,
      ih (bit := 0) (k := min (k + 1) bytes.length) (by exact hq) rfl (Nat.min_le_right _ _), e]
    simp [PortState.answerTimer]

/-- R176: a port whose bus timeout has not come takes none. -/
theorem takeTimeout_of_time {q : PortState} (h : q.timedOut = false) : q.takeTimeout = q := by
  simp [PortState.takeTimeout, h]

/-- R176: a bus timeout that has come ends the transaction. -/
theorem takeTimeout_of_timedOut {q : PortState} (h : q.timedOut = true) : q.takeTimeout = q.drop .aside := by
  simp [PortState.takeTimeout, h]

/-- R177: after a bus timeout is taken none has come. -/
@[simp] theorem timedOut_takeTimeout (q : PortState) : q.takeTimeout.timedOut = false := by
  cases h : q.timedOut with
  | false => rw [takeTimeout_of_time h, h]
  | true =>
    rw [takeTimeout_of_timedOut h]
    unfold PortState.drop
    split <;> rfl

/-- R155: an event at a port reaches that port alone, after a bus timeout that has come there. -/
theorem portEvent_running {s : State} (p : Host) (f : PortState → PortState) (h : s.inReset = false) :
    ∃ t, s.portEvent p f = .next t ∧ t = { s with ports := t.ports } ∧ (∀ q, q ≠ p → t.port q = s.port q)
      ∧ t.port p = f (s.port p).takeTimeout :=
  ⟨_, takes_running h, rfl, fun q hq => by rw [State.port_updatePort, if_neg hq], by
    rw [State.port_updatePort, if_pos rfl]⟩

/-- R158, R176: an edge in TX with no ACK under way: where SCL was low it takes a bit, or is not taken before the host's
answer; after a falling edge the next bit is shown. -/
theorem edge_of_bits {q : PortState} {bytes : List Byte} {k bit : Nat} (scl : Scl) (hq : q.txn = .tx)
    (ha : q.ack = .absent) (hi : q.image = some ⟨bytes, k, bit⟩) :
    q.edge scl =
      if q.timer.running then
        if 8 ≤ bit then q
        else PortState.leave scl
          { q with timer := { q.timer with running := false }, image := some ⟨bytes, k, bit + 1⟩ }
      else q.leave scl := by
  cases hr : q.timer.running <;> cases scl <;>
    simp [PortState.edge, PortState.sclLow, PortState.inTransaction, PortState.awaitsAnswer, PortState.leave,
      PortState.rise, Image.clockBit, hq, ha, hi, hr]

end Sys2Proof.Machine
end

