-- ==== Sys2Proof/WellFormed.lean ====
section
/-! DEFINITION. Which commands and events the spec's ranges admit: lease ids and tickets are numbers from 1 to 255. -/

namespace Sys2Proof

/-- A lease id or a ticket is a number from 1 to 255 (R4, R31). -/
def idInRange (n : Nat) : Bool := decide (1 ≤ n ∧ n ≤ 255)

/-- The events that name a lease or a ticket of their own name one in range. Every other operand is bounded by its
type. -/
def Instr.wellFormed : Instr → Bool
  | .renewExpiry lease => idInRange lease
  | .waitLapse ticket  => idInRange ticket
  | .offerLapse lease  => idInRange lease
  | .deviceReset _ | .deviceResetEnd _ | .millisecondTick _ | .settleExpiry _ | .pulseCompletion _ | .busTimeout _
  | .busError _ _ | .startCondition _ | .stopCondition _ | .addressByte _ _ | .commandFrame _ _ _ | .responseRead _ _ _
  | .claim _ | .cancelClaim _ | .release _ | .renew _ | .renewAll _ | .queryLease _ | .offer _ | .accept _ | .decline _
  | .revoke _ | .reserve _ | .detach _ | .clearHost _ | .setLevel _ | .configure _ | .configureMirror _ | .pulse _
  | .readLines _ | .queryLine _ | .externalStateChange _ _ | .filteredReport _ | .arrival _ | .sampleTick
  | .subscribe _ | .unsubscribe _ | .poll _ | .attention _ => true

end Sys2Proof
end

