-- ==== Sys2Proof/Laws/PerInstr.lean ====
section
/-! SUPPORT. Statements made of every row of the table, one lemma for each constructor of Instr. -/

namespace Sys2Proof.Laws.WrittenCommand

open Sys2Proof.Machine

/-- R166, R168, R181: a row that takes a host's command takes one that its code names and that is not IDENTIFY, which the
port engine answers itself; and the row is well formed whatever its port. -/
def Statement (i : Instr) : Prop :=
  ∀ p cmd, Instr.ownerCommand i = some (p, cmd) →
    cmd ≠ .identify ∧ cmdOf cmd.code = some cmd ∧ i.wellFormed = true

theorem of_none {i : Instr} (h : Instr.ownerCommand i = none) : Statement i := by
  intro p cmd k
  rw [h] at k
  cases k

theorem of_some {i : Instr} {q : Host} {c : Cmd} (h : Instr.ownerCommand i = some (q, c))
    (hc : c ≠ .identify ∧ cmdOf c.code = some c) (hw : i.wellFormed = true) : Statement i := by
  intro p cmd k
  rw [h] at k
  cases k
  exact ⟨hc.1, hc.2, hw⟩

theorem deviceReset (cause : ResetCause) : Statement (.deviceReset cause) := of_none rfl
theorem deviceResetEnd (straps : Straps) : Statement (.deviceResetEnd straps) := of_none rfl
theorem millisecondTick (order : List Line) : Statement (.millisecondTick order) := of_none rfl
theorem settleExpiry (line : Line) : Statement (.settleExpiry line) := of_none rfl
theorem renewExpiry (lease : Nat) : Statement (.renewExpiry lease) := of_none rfl
theorem waitLapse (ticket : Nat) : Statement (.waitLapse ticket) := of_none rfl
theorem offerLapse (lease : Nat) : Statement (.offerLapse lease) := of_none rfl
theorem pulseCompletion (line : Line) : Statement (.pulseCompletion line) := of_none rfl
theorem busTimeout (port : Host) : Statement (.busTimeout port) := of_none rfl
theorem busError (port : Host) (condition : Condition) : Statement (.busError port condition) := of_none rfl
theorem startCondition (port : Host) : Statement (.startCondition port) := of_none rfl
theorem stopCondition (port : Host) : Statement (.stopCondition port) := of_none rfl
theorem addressByte (port : Host) (byte : Byte) : Statement (.addressByte port byte) := of_none rfl
theorem commandFrame (port : Host) (bytes : List Byte) (scl : Scl) : Statement (.commandFrame port bytes scl) := of_none rfl
theorem responseRead (port : Host) (answers : List Bool) (scl : Scl) : Statement (.responseRead port answers scl) := of_none rfl
theorem claim (port : Host) : Statement (.claim port) := of_some rfl (by decide) rfl
theorem cancelClaim (port : Host) : Statement (.cancelClaim port) := of_some rfl (by decide) rfl
theorem release (port : Host) : Statement (.release port) := of_some rfl (by decide) rfl
theorem renew (port : Host) : Statement (.renew port) := of_some rfl (by decide) rfl
theorem renewAll (port : Host) : Statement (.renewAll port) := of_some rfl (by decide) rfl
theorem queryLease (port : Host) : Statement (.queryLease port) := of_some rfl (by decide) rfl
theorem offer (port : Host) : Statement (.offer port) := of_some rfl (by decide) rfl
theorem accept (port : Host) : Statement (.accept port) := of_some rfl (by decide) rfl
theorem decline (port : Host) : Statement (.decline port) := of_some rfl (by decide) rfl
theorem revoke (port : Host) : Statement (.revoke port) := of_some rfl (by decide) rfl
theorem reserve (port : Host) : Statement (.reserve port) := of_some rfl (by decide) rfl
theorem detach (port : Host) : Statement (.detach port) := of_some rfl (by decide) rfl
theorem clearHost (port : Host) : Statement (.clearHost port) := of_some rfl (by decide) rfl
theorem setLevel (port : Host) : Statement (.setLevel port) := of_some rfl (by decide) rfl
theorem configure (port : Host) : Statement (.configure port) := of_some rfl (by decide) rfl
theorem configureMirror (port : Host) : Statement (.configureMirror port) := of_some rfl (by decide) rfl
theorem pulse (port : Host) : Statement (.pulse port) := of_some rfl (by decide) rfl
theorem readLines (port : Host) : Statement (.readLines port) := of_some rfl (by decide) rfl
theorem queryLine (port : Host) : Statement (.queryLine port) := of_some rfl (by decide) rfl
theorem externalStateChange (line : Line) (external : External) : Statement (.externalStateChange line external) := of_none rfl
theorem filteredReport (line : Line) : Statement (.filteredReport line) := of_none rfl
theorem arrival (line : Line) : Statement (.arrival line) := of_none rfl
theorem sampleTick : Statement .sampleTick := of_none rfl
theorem subscribe (port : Host) : Statement (.subscribe port) := of_some rfl (by decide) rfl
theorem unsubscribe (port : Host) : Statement (.unsubscribe port) := of_some rfl (by decide) rfl
theorem poll (port : Host) : Statement (.poll port) := of_some rfl (by decide) rfl
theorem attention (port : Host) : Statement (.attention port) := of_some rfl (by decide) rfl

end Sys2Proof.Laws.WrittenCommand
end

