-- ==== Sys2Proof/Tests/Slice0.lean ====
section
/-! SUPPORT. Tests from the worked examples of spec/, and for each statement with hypotheses a witness that meets them. -/

set_option maxRecDepth 20000

namespace Sys2Proof.Machine.Tests

/-! ### Small states -/

/-- The part just after device reset, with nothing strapped as supervisor. -/
def running : State := { State.reset with inReset := false }

/-- The parts of a state that a step's answer is looked at through. -/
def after (i : Instr) (s : State) : State :=
  match exec i s with
  | .next t => t
  | .fault _ | .refused _ => s

/-- `s` with command `cmd`, written with tag 0x41 and these parameters, waiting at port `p`. -/
def written (p : Host) (cmd : Cmd) (ps : List Byte) (s : State) : State :=
  s.updatePort p fun q => { q with
    slot := .pending 0x41 cmd, repeatGuard := none, buffer := cmd.code :: 0x41 :: byteOf ps.length :: (ps ++ [0]) }

/-- A live lease with no offer. -/
def leased (id : Nat) (holder : Host) (entries : List LineEntry) : Lease := ⟨id, holder, entries, 0, none, none⟩

/-- `s` with lease `l` live and its lines bound. -/
def withLease (l : Lease) (s : State) : State :=
  { s.bindLines l.entries ⟨l.id, l.holder⟩ with leases := insertLease l s.leases }

/-- `s` with this line record's settings changed. -/
def withLine (i : Line) (f : LineRec → LineRec) (s : State) : State := s.setLine i (f (s.line i))

/-- An OUT line with this drive and level. -/
def driving (d : Drive) (v : Level) (r : LineRec) : LineRec := { r with direction := .output, drive := d, level := v }

/-- Queue records with these seqs. -/
def records (seqs : List Nat) : List EventRecord := seqs.map fun n => ⟨.granted 1 1, byteOf n, 0⟩

/-- The seqs of the records in the queue of host `h`. -/
def seqs (s : State) (h : Host) : List Byte := (s.eventQueue h).records.map fun r => r.seq

/-- The events in the queue of host `h`. -/
def events (s : State) (h : Host) : List Event := (s.eventQueue h).records.map fun r => r.event

/-- The result in the slot of port `p`. -/
def answer (s : State) (p : Host) : Option (Status × List Byte) :=
  match (s.port p).slot with
  | .ready st _ _ data => some (st, data)
  | .empty | .pending _ _ => none

/-! ### Ill-formed terms (R4, R31: 1 to 255) -/

theorem test_expiry_of_lease_0_is_ill_formed : (Instr.renewExpiry 0).wellFormed = false := by decide
theorem test_expiry_of_lease_256_is_ill_formed : (Instr.renewExpiry 256).wellFormed = false := by decide
theorem test_wait_lapse_of_ticket_0_is_ill_formed : (Instr.waitLapse 0).wellFormed = false := by decide
theorem test_wait_lapse_of_ticket_256_is_ill_formed : (Instr.waitLapse 256).wellFormed = false := by decide
theorem test_offer_lapse_of_lease_0_is_ill_formed : (Instr.offerLapse 0).wellFormed = false := by decide
theorem test_offer_lapse_of_lease_255_is_well_formed : (Instr.offerLapse 255).wellFormed = true := by decide

/-! ### Spec 01: id assignment with wrap and skip -/

def wrapping : State :=
  { running with leases := [leased 1 0 [⟨0, .float⟩], leased 7 0 [⟨1, .float⟩], leased 254 0 [⟨2, .float⟩]], leaseCounter := 254 }

theorem test_id_254_is_live_so_255 : wrapping.nextLeaseId = 255 ∧ nextNumber 255 = 1 := by decide

theorem test_id_1_is_live_so_2 : { wrapping with leaseCounter := 1 }.nextLeaseId = 2 := by decide

/-! ### Spec 10: a claim and its result -/

def claimFrame : List Byte := [0x10, 0x10, 5, 5, 0, 2, 0x42, 0x65]

theorem test_line_entry_codes : entryOf 0x42 = some ⟨2, .low⟩ ∧ entryOf 0x65 = some ⟨5, .high⟩ := by decide

theorem test_entries_out_of_order_are_refused : claimEntries [0x65, 0x42] = none := by decide

theorem test_claim_grants_lease_1 :
    answer (after (.claim 0) (written 0 .claim [5, 0, 2, 0x42, 0x65] running)) 0 = some (.ok, [1]) := by decide

theorem test_claim_binds_L5 :
    ((after (.claim 0) (written 0 .claim [5, 0, 2, 0x42, 0x65] running)).line 5).holder = some ⟨1, 0⟩ := by decide

theorem test_claim_frame_is_accepted :
    ((after (.commandFrame 0 (claimFrame ++ [crcOf (0x70 :: claimFrame)]) .high)
        (after (.addressByte 0 0x70) (after (.startCondition 0) running))).port 0).slot = .pending 0x10 .claim := by decide

/-- CRC of the bytes 0xBE 0xEF with polynomial 0x31 and start 0xFF: 0x92, from the data sheets of other parts that use
this frame check (PRESUMED: a value from outside spec/). -/
theorem test_crc_value_from_outside : crcOf [0xBE, 0xEF] = 0x92 := by decide

/-! ### Spec 10: reading a lost lease -/

theorem test_lost_lease_record :
    recordBytes ⟨.leaseLost 9 .expired, 0x2A, 5000⟩ = [0x04, 0x2A, 0x88, 0x13, 9, 4, 0, 0] := by decide

/-! ### Spec 02: one pass with several grants -/

def crowded : State :=
  { running with
    leases := (List.range 13).map (fun k => leased (k + 1) 2 []) ++
      [leased 20 0 [⟨3, .float⟩, ⟨4, .float⟩, ⟨8, .float⟩], leased 21 1 [⟨10, .float⟩]]
    leaseCounter := 30
    queue := [⟨4, 1, [⟨3, .float⟩, ⟨4, .float⟩], 0, 20⟩, ⟨5, 2, [⟨4, .float⟩, ⟨6, .float⟩], 0, 20⟩,
      ⟨6, 3, [⟨8, .float⟩], 0, 20⟩, ⟨7, 2, [⟨10, .float⟩], 0, 20⟩] }

theorem test_scan_leaves_tickets_5_and_7 :
    (after (.release 0) (written 0 .release [20] crowded)).queue.map (fun c => c.ticket) = [5, 7] := by decide

theorem test_scan_grants_tickets_4_and_6 :
    events (after (.release 0) (written 0 .release [20] crowded)) 1 = [.granted 4 30]
      ∧ events (after (.release 0) (written 0 .release [20] crowded)) 3 = [.granted 6 31] := by decide

/-- A full table, and two claims on free lines that wait for an entry (R34). -/
def full : State :=
  { running with
    leases := (List.range 16).map fun k => leased (k + 1) 2 []
    queue := [⟨4, 1, [⟨3, .float⟩], 0, 20⟩, ⟨5, 3, [⟨8, .float⟩], 0, 20⟩] }

theorem test_one_entry_goes_to_the_older_claim :
    (after (.release 2) (written 2 .release [9] full)).queue.map (fun c => c.ticket) = [5] := by decide

/-! ### Spec 03: a transfer, and the last milliseconds of an offer -/

def offered : State :=
  withLease { leased 14 1 [⟨3, .high⟩] with interval := 5, remaining := some 1, offer := some ⟨2, 0⟩ } running

theorem test_accept_restarts_the_timer :
    (after (.accept 2) (written 2 .accept [14] offered)).leases =
      [{ leased 14 2 [⟨3, .high⟩] with interval := 5, remaining := some 100 }] := by decide

theorem test_accept_tells_the_previous_holder :
    events (after (.accept 2) (written 2 .accept [14] offered)) 1 = [.transferred 14 2] := by decide

theorem test_decline_tells_the_holder :
    events (after (.decline 2) (written 2 .decline [14] offered)) 1 = [.offerLapsed 14 .declined] := by decide

theorem test_offer_lapse_tells_both :
    events (after (.offerLapse 14) offered) 1 = [.offerLapsed 14 .timeout]
      ∧ events (after (.offerLapse 14) offered) 2 = [.offerWithdrawn 14 .timeout] := by decide

theorem test_offer_to_oneself_is_refused :
    answer (after (.offer 1) (written 1 .offer [14, 1] offered)) 1 = some (.badParam, []) := by decide

theorem test_query_of_an_offered_lease :
    answer (after (.queryLease 0) (written 0 .queryLease [14] offered)) 0 =
      some (.ok, [14, 1, 1, 5, 1, 0, 2, 0, 1, 0x63]) := by decide

/-! ### Spec 04: contention and the keeper on one line, and parking with four fallbacks -/

def sinking (v : Level) (x : External) : State :=
  (withLine 6 (driving .sinkOpen v) (withLease (leased 1 1 [⟨6, .float⟩]) running)).setExternal 6 x

theorem test_sink_open_1_keeps_0 :
    ((after (.setLevel 1) (written 1 .setLevel [1, 0x40, 0, 0, 0x40, 0, 0] (sinking false .opened))).line 6).raw = false := by
  decide

theorem test_contention_shows_the_board :
    ((after (.setLevel 1) (written 1 .setLevel [1, 0x40, 0, 0, 0, 0, 0] (sinking true .high))).line 6).raw = true := by
  decide

theorem test_open_shows_the_drive :
    (after (.externalStateChange 6 .opened) (withLine 6 (fun r => { r with raw := true, keeper := true })
      (sinking false .high))).arrivals = [[⟨6, false⟩]] := by decide

def fourFallbacks : State :=
  withLine 11 (driving .hiz false) <| withLine 10 (fun r => { driving .pushPull true r with
      pull := .up, raw := true, keeper := true }) <|
    withLine 9 (fun r => { driving .pushPull true r with
      function := .pulse true false 30, raw := true, keeper := true }) <|
    withLine 8 (driving .sinkOpen true) <|
    withLease { leased 5 2 [⟨8, .low⟩, ⟨9, .hold⟩, ⟨10, .float⟩, ⟨11, .high⟩] with
      interval := 1, remaining := some 0 } running

theorem test_parking_settings :
    [8, 9, 10, 11].map (fun i => ((after (.renewExpiry 5) fourFallbacks).line i).settings) =
      [(.output, .sinkOpen, .noPull, false), (.output, .pushPull, .noPull, false), (.input, .pushPull, .up, true),
       (.output, .pushPull, .noPull, true)] := by decide

theorem test_parking_arrivals_and_record :
    (after (.renewExpiry 5) fourFallbacks).arrivals = [[⟨9, false⟩, ⟨11, true⟩]]
      ∧ events (after (.renewExpiry 5) fourFallbacks) 2 = [.leaseLost 5 .expired] := by decide

/-! ### Spec 05: a mirror across two hosts, and a pulse -/

def mirroring : State :=
  withLine 2 (fun r => { driving .pushPull false r with function := .mirror 15 true false })
    (withLease (leased 3 0 [⟨2, .float⟩]) (withLease (leased 8 1 [⟨15, .float⟩]) running))

theorem test_configure_mirror_follows_at_once :
    ((after (.configureMirror 0) (written 0 .configure [3, 2, 1, 3, 0, 1, 15, 1] mirroring)).line 2).raw = true := by
  decide

theorem test_a_source_made_out_faults_its_mirror :
    events (after (.configure 1) (written 1 .configure [8, 15, 1, 2, 0, 0, 0, 0] mirroring)) 0 = [.mirrorFault 2 15] := by
  decide

theorem test_a_report_moves_the_mirror :
    ((after (.filteredReport 15) { withLine 2 (fun r => { r with level := true }) mirroring with
      reports := [[⟨15, true⟩]] }).line 2).level = false := by decide

def outAt1 : State :=
  withLine 3 (fun r => { driving .pushPull true r with raw := true, keeper := true })
    (withLease (leased 14 1 [⟨3, .high⟩]) running)

theorem test_pulse_takes_the_level :
    ((after (.pulse 1) (written 1 .pulse [14, 3, 0, 50, 0] outAt1)).line 3).function = .pulse false true 50 := by decide

theorem test_pulse_completion_reverts :
    events (after (.pulseCompletion 3) (withLine 3 (fun r => { driving .pushPull false r with
      function := .pulse false true 0 }) outAt1)) 1 = [.pulseDone 3 14] := by decide

theorem test_settle_expiry_reports_the_driven_value :
    events (after (.settleExpiry 3) (withLine 3 (fun r => { r with settle := 1 }) outAt1)) 1 = [.mismatch 3 true] := by
  decide

theorem test_no_settle_expires_twice : (after (.settleExpiry 3) outAt1) = outAt1 := by decide

theorem test_tick_tests_after_the_count :
    events (after (.millisecondTick []) (withLine 3 (fun r => { r with settle := 1 }) outAt1)) 1 = [.mismatch 3 true] := by
  decide

/-- A PUSH_PULL line with fallback `f` whose pulse of level 1 over revert level 0 is due. -/
def dueAtParking (f : Fallback) : State :=
  withLine 3 (fun r => { driving .pushPull true r with function := .pulse true false 0, raw := true, keeper := true })
    (withLease { leased 14 1 [⟨3, f⟩] with interval := 1, remaining := some 0 } running)

/-- R98: the settings are those of either order; the raw level is log entry 26. -/
theorem test_completion_and_parking_leave_the_same_settings :
    [Fallback.float, .hold, .low, .high].all (fun f =>
      ((after (.renewExpiry 14) (after (.pulseCompletion 3) (dueAtParking f))).line 3).settings
        == ((after (.pulseCompletion 3) (after (.renewExpiry 14) (dueAtParking f))).line 3).settings) = true := by decide

/-! ### Spec 06: locking a write-protect line -/

def protecting : State :=
  { withLease (leased 20 3 [⟨17, .high⟩]) running with
    supervisor := some 0
    queue := [⟨6, 1, [⟨17, .float⟩, ⟨18, .float⟩], 0, 20⟩, ⟨7, 2, [⟨18, .float⟩], 0, 20⟩] }

theorem test_reserve_purges_one_claim :
    answer (after (.reserve 0) (written 0 .reserve [0, 0, 2, 8] protecting)) 0 = some (.ok, [1]) := by decide

theorem test_reserve_lets_the_scan_grant_the_next :
    events (after (.reserve 0) (written 0 .reserve [0, 0, 2, 8] protecting)) 1 = [.claimLapsed 6 .denied]
      ∧ events (after (.reserve 0) (written 0 .reserve [0, 0, 2, 8] protecting)) 2 = [.granted 7 1] := by decide

theorem test_revoke_needs_the_supervisor :
    answer (after (.revoke 1) (written 1 .revoke [20] protecting)) 1 = some (.notSupervisor, []) := by decide

theorem test_clear_host_leaves_one_record :
    events (after (.clearHost 0) (written 0 .clearHost [1] protecting)) 1 = [.cleared 0] := by decide

theorem test_detach_counts_leases_and_claims :
    answer (after (.detach 3) (written 3 .detach [] protecting)) 3 = some (.ok, [1, 0]) := by decide

/-! ### Spec 07: a bouncing input with two subscribers -/

def bouncing (r : InputRec) : State :=
  { running with
    inputs := updateLine running.inputs 9 fun _ => r
    subs := updateHost (updateHost running.subs 0 fun t => t.set 9 (some ⟨.both, .raw⟩)) 2 fun t =>
      t.set 9 (some ⟨.rise, .filtered⟩)
    arrivals := [[⟨9, true⟩]] }

theorem test_arrival_reaches_the_raw_subscriber :
    events (after (.arrival 9) (bouncing InputRec.reset)) 0 = [.edge 9 true .raw]
      ∧ events (after (.arrival 9) (bouncing InputRec.reset)) 2 = [] := by decide

theorem test_the_third_sample_filters :
    events (after .sampleTick (bouncing ⟨true, false, true, true, false⟩)) 2 = [.edge 9 true .filtered]
      ∧ (after .sampleTick (bouncing ⟨true, false, true, true, false⟩)).reports = [[⟨9, true⟩]] := by decide

/-! ### Spec 04 and 07: a command that waits is taken before two ticks (R70, R123) -/

theorem test_one_tick_passes_a_line_command :
    (after (.millisecondTick []) (written 0 .readLines [] running)).timestamp = 1
      ∧ ((after (.millisecondTick []) (written 0 .readLines [] running)).port 0).ticked = true := by decide

theorem test_no_second_tick_passes_it :
    (after (.millisecondTick []) (after (.millisecondTick []) (written 0 .readLines [] running))).timestamp = 1 := by decide

theorem test_a_tick_passes_the_others :
    (after (.millisecondTick []) (after (.millisecondTick []) (written 0 .renewAll [] running))).timestamp = 2 := by decide

/-! ### Spec 07: the arrivals of the end of device reset (R133) -/

def highLines : State := after (.deviceResetEnd ⟨false, 0, 0⟩) ((State.reset.setExternal 4 .high).setExternal 9 .high)

theorem test_two_lines_arrive_in_any_order :
    highLines.startUp = [4, 9] ∧ (after (.arrival 9) highLines).arrivals = [[⟨4, true⟩]] := by decide

theorem test_no_subscription_before_they_are_taken :
    answer (after (.subscribe 0) (written 0 .subscribe [0x10, 0, 0, 2, 0] highLines)) 0 = none
      ∧ answer (after (.subscribe 0) (written 0 .subscribe [0x10, 0, 0, 2, 0] (after (.arrival 4)
        (after (.arrival 9) highLines)))) 0 = some (.ok, [1]) := by decide

/-! ### Spec 08: overflow and recovery, and acknowledgement across the wrap -/

def overflowed : State :=
  running.updateQueue 1 fun _ => ⟨records ((List.range 32).map fun k => k + 10), 42, 9, 3, true, true⟩

theorem test_acknowledgement_inserts_overflow :
    seqs (after (.poll 1) (written 1 .poll [1, 17, 7] overflowed)) 1 = (List.range 25).map (fun k => byteOf (k + 18))
      ∧ ((events (after (.poll 1) (written 1 .poll [1, 17, 7] overflowed)) 1).getLast?) = some (.overflow 3) := by decide

def wrappedQueue (seqs : List Nat) (lastAck : Byte) : State :=
  running.updateQueue 3 fun _ => ⟨records seqs, 2, lastAck, 0, true, true⟩

theorem test_acknowledgement_across_the_wrap :
    seqs (after (.poll 3) (written 3 .poll [1, 0, 1] (wrappedQueue [250, 251, 252, 253, 254, 255, 0, 1] 249))) 3 = [1] := by
  decide

theorem test_a_seq_outside_the_window_is_refused :
    answer (after (.poll 3) (written 3 .poll [1, 250, 1] (wrappedQueue [1] 0))) 3 = some (.badSeq, []) := by decide

/-! ### Spec 09: a command and its result on the bus -/

theorem test_second_part_answers_0x72 :
    ((after (.addressByte 2 0x72) (after (.startCondition 2)
      { running with busAddress := 0x39 })).port 2).txn = .rx := by decide

theorem test_read_image_of_an_empty_slot :
    ((after (.responseRead 0 [true, true, true, true] .low) (after (.addressByte 0 0x71)
      (after (.startCondition 0) running))).port 0).sent = [0xF0, 0, 0, 0] := by decide

/-- `running` with port 1 in TX at a byte of its image, `bit` of whose bits have been clocked, and SCL low or high. -/
def sending (position bit : Nat) (low : Bool) : State :=
  running.updatePort 1 fun q =>
    { q with txn := .tx, image := some ⟨imageBytes 0x71 .empty, position, bit⟩, timer := ⟨25, low⟩ }

/-- R158, R184: what SDA shows of the status byte EMPTY, 0xF0, bit by bit as SCL falls: four bits released, four low, and
released for the answer; the tag byte 0 then begins low. -/
theorem test_a_sent_byte_shows_each_of_its_bits :
    ((List.range 8).map fun k => ((after (.responseRead 1 [] .low) (sending 0 k true)).port 1).sda)
        = [.released, .released, .released, .low, .low, .low, .low, .released]
      ∧ ((after (.responseRead 1 [] .low) (sending 0 0 false)).port 1).sda = .released
      ∧ ((after (.responseRead 1 [true] .low) (sending 0 8 true)).port 1).sda = .low := by decide

/-- R158, R176: a rising edge takes the bit, and SDA stands for it. -/
theorem test_a_rising_edge_takes_a_bit :
    ((after (.responseRead 1 [] .high) (sending 1 2 true)).port 1).image = some ⟨imageBytes 0x71 .empty, 1, 3⟩
      ∧ ((after (.responseRead 1 [] .high) (sending 1 2 true)).port 1).timer = ⟨25, false⟩ := by decide

theorem test_a_stop_discards_a_frame_in_reception :
    ((after (.stopCondition 0) (running.updatePort 0 fun q => { q with txn := .rx, buffer := [0x13, 0x41] })).port 0).buffer
      = [] := by decide

/-- Port 0 after its write address byte. -/
def addressedForWriting : State := after (.addressByte 0 0x70) (after (.startCondition 0) running)

/-- R158: an accepted CRC byte is acknowledged from the falling edge after its eighth bit, through the ninth clock, until SCL
falls again, though the port has left RX. -/
theorem test_an_acknowledge_stands_for_its_clock :
    let accepted := after (.commandFrame 0 (claimFrame ++ [crcOf (0x70 :: claimFrame)]) .high) addressedForWriting
    let low := after (.commandFrame 0 [] .low) accepted
    let ninth := after (.commandFrame 0 [] .high) low
    (accepted.port 0).sda = .released ∧ (low.port 0).sda = .low ∧ (ninth.port 0).sda = .low
      ∧ ((after (.commandFrame 0 [] .low) ninth).port 0).sda = .released := by decide

/-- Port 0 in RX with SCL low, its bus timer at `ms` and its ACK driven. -/
def acknowledging (ms : Nat) : State :=
  (after (.commandFrame 0 [0x13] .low) addressedForWriting).updatePort 0 fun q => { q with timer := ⟨ms, true⟩ }

/-- R176: a timeout meets a port that acknowledges with SCL low: it releases SDA and discards the frame. -/
theorem test_a_timeout_releases_an_acknowledge :
    ((acknowledging 25).port 0).ack = .driven ∧ ((acknowledging 25).port 0).sda = .low
      ∧ ((after (.busTimeout 0) (acknowledging 1)).port 0).txn = .rx
      ∧ ((after (.busTimeout 0) (after (.millisecondTick []) (acknowledging 1))).port 0).txn = .aside
      ∧ ((after (.busTimeout 0) (after (.millisecondTick []) (acknowledging 1))).port 0).sda = .released
      ∧ ((after (.busTimeout 0) (after (.millisecondTick []) (acknowledging 1))).port 0).buffer = [] := by decide

/-- R176: once the timer has run to 0 the frame is lost, whatever comes next: an edge of SCL, a byte or a tick. -/
theorem test_no_event_passes_a_timeout :
    ((after (.commandFrame 0 [] .high) (acknowledging 0)).port 0).txn = .aside
      ∧ ((after (.commandFrame 0 [0x41] .high) (acknowledging 0)).port 0).buffer = []
      ∧ ((after (.millisecondTick []) (acknowledging 0)).port 0).txn = .aside := by decide

theorem test_a_byte_past_the_frame_is_not_acknowledged :
    ((after (.commandFrame 0 (claimFrame ++ [crcOf (0x70 :: claimFrame), 0x55]) .low) addressedForWriting).port 0).sda
      = .released := by decide

/-! ### Reset -/

theorem test_only_the_end_of_reset_ends_it :
    (after .sampleTick State.reset).inReset = true
      ∧ (after (.deviceResetEnd ⟨true, 2, 1⟩) State.reset).inReset = false := by decide

theorem test_straps :
    (after (.deviceResetEnd ⟨true, 2, 1⟩) State.reset).supervisor = some 2
      ∧ (after (.deviceResetEnd ⟨true, 2, 1⟩) State.reset).busAddress = 0x39 := by decide

/-! ### A state with something of every kind, which keeps every law

Host 0 holds lease 5 over L0, in the middle of a pulse, and L1, a mirror of L3; host 1 has offered lease 7 over L2 to
host 2; host 2 waits for L0; an arrival of L2 and a report of L4 are in flight; a record stands in EQ0; and port 0 waits with a
RELEASE of lease 5. -/

def laden : State :=
  written 0 .release [5] <| State.raise 0 (.edge 2 true .raw) <|
  withLine 2 (fun r => { driving .pushPull true r with raw := true, keeper := true }) <|
  withLine 1 (fun r => { driving .pushPull false r with function := .mirror 3 false false }) <|
  withLine 0 (fun r => { driving .hiz true r with function := .pulse true false 5, settle := 4 }) <|
  withLease { leased 7 1 [⟨2, .hold⟩] with offer := some ⟨2, 200⟩ } <|
  withLease { leased 5 0 [⟨0, .float⟩, ⟨1, .high⟩] with interval := 10, remaining := some 200 } <|
  { running with
    supervisor := some 3
    queue := [⟨1, 2, [⟨0, .low⟩], 0, 20⟩]
    ticketCounter := 2
    inputs := updateLine running.inputs 4 fun _ => ⟨true, true, true, true, true⟩
    lines := updateLine running.lines 4 fun r => { r with raw := true, keeper := true }
    external := running.external.set 4 .high
    arrivals := [[⟨2, true⟩]]
    reports := [[⟨4, true⟩]] }

/-- `s` with `i` at the front of the commands that wait. -/
def queued (i : Instr) (s : State) : State := { s with pending := [i] }

theorem pulse_range {s : State} (h : ∀ i : Line, (s.line i).settle ≤ settleMs ∧
    (match (s.line i).function with
      | .pulse level _ remaining =>
        (s.line i).direction == .output && (s.line i).level == level && decide (remaining ≤ 65535)
      | .plain | .mirror _ _ _ => true) = true) : LineRangeLaw s := by
  refine fun i => ⟨(h i).1, fun level revert remaining e => ?_⟩
  have k := (h i).2
  rw [e] at k
  simpa [and_assoc] using k

theorem mirror_out {s : State} (h : ∀ i : Line,
    (match (s.line i).function with
      | .mirror source _ fault =>
        (s.line i).direction == .output && (fault || (s.line source).direction == .input)
      | .plain | .pulse _ _ _ => true) = true) : MirrorLaw s := by
  intro i source invert fault e
  have k := h i
  rw [e] at k
  cases fault <;> simpa using k

theorem mirror_follows {s : State} (hr : ∀ i : Line, ∀ v ∈ (inFlight i s.reports).getLast?, v = (s.input i).filtered)
    (h : ∀ i : Line,
      (match (s.line i).function with
        | .mirror source invert false => (s.line i).level == xor (s.input source).filtered invert
        | .mirror _ _ true | .plain | .pulse _ _ _ => true) = true) : MirrorFollowsLaw s := by
  refine ⟨hr, fun i source invert e _ => ?_⟩
  have k := h i
  rw [e] at k
  simpa using k

theorem port_laws {s : State} (h : ∀ p : Host,
    (s.port p).repeatGuard.isSome = (match (s.port p).slot with | .ready _ _ _ _ => true | .empty | .pending _ _ => false)
      ∧ (match (s.port p).slot with
        | .pending tag cmd => decide ((s.port p).txn ≠ .rx ∧ (s.port p).buffer.getD 0 0 = cmd.code
            ∧ (s.port p).buffer.getD 1 0 = tag ∧ cmd ≠ .identify
            ∧ (s.port p).buffer.length = 4 + ((s.port p).buffer.getD 2 0).toNat ∧ cmd.lengthOk (s.port p).params = true)
        | .empty | .ready _ _ _ _ => true) = true
      ∧ (s.port p).TickedOk ∧ (s.port p).TxnOk s.busAddress) : PortLaw s := by
  refine fun p => ⟨?_, fun tag cmd e => ?_, (h p).2.2⟩
  · unfold PortState.GuardOk
    rw [(h p).1]
    cases (s.port p).slot <;> simp
  · have k := (h p).2.1
    rw [e] at k
    exact of_decide_eq_true k

theorem laden_leases : LeaseTableLaw laden ∧ DisjointLaw laden := by
  unfold LeaseTableLaw DisjointLaw Lease.Ok EntriesOk; decide

theorem laden_claims : WaitQueueLaw laden ∧ OwnLineLaw laden ∧ ReservationLaw laden ∧ NoGrantableLaw laden := by
  unfold WaitQueueLaw OwnLineLaw ReservationLaw NoGrantableLaw Claim.Ok EntriesOk; decide

theorem laden_bindings : BindingLaw laden := by unfold BindingLaw; decide

theorem laden_free_lines : FreeLineLaw laden := by unfold FreeLineLaw; decide

theorem laden_levels : RawLevelLaw laden ∧ LineRangeLaw laden :=
  ⟨by unfold RawLevelLaw; decide, pulse_range (by decide)⟩

theorem laden_mirrors : MirrorLaw laden ∧ MirrorFollowsLaw laden :=
  ⟨mirror_out (by decide), mirror_follows (by decide) (by decide)⟩

theorem laden_arrivals : ArrivalLaw laden := by
  intro i
  fin_cases i
  case _ => exact ⟨trivial, rfl⟩
  case _ => exact ⟨trivial, rfl⟩
  case _ => exact ⟨⟨rfl, trivial⟩, rfl⟩
  all_goals exact ⟨trivial, rfl⟩

theorem laden_queues : EventQueueLaw laden := by
  intro h
  fin_cases h
  case _ => exact ⟨by decide, ⟨rfl, trivial⟩, by decide, by decide, by decide, by decide⟩
  all_goals exact ⟨by decide, trivial, by decide, by decide, by decide, by decide⟩

theorem laden_ports : PortLaw laden := port_laws (by
  unfold PortState.TickedOk PortState.TxnOk PortState.AckOk PortState.SdaOk; decide)

/-! ### Witnesses: a state and operands that meet the hypotheses of each statement, clause by clause -/

theorem witness_StepTakesTheFrontCommand :
    (queued (.release 0) laden).pending = [.release 0] ∧ laden.pending = [] := by decide

theorem witness_EveryCommandHasANextStateAndLeavesTheQueue :
    State.reset.inReset = true ∧ (∀ c, Instr.sampleTick ≠ .deviceReset c) ∧ (∀ x, Instr.sampleTick ≠ .deviceResetEnd x)
      ∧ ∀ l e, Instr.sampleTick ≠ .externalStateChange l e := ⟨rfl, by simp, by simp, by simp⟩

theorem witness_OnlyTheirEventsChangeSupervision :
    (∃ t, exec (.release 0) laden = .next t) ∧ (∀ c, Instr.release 0 ≠ .deviceReset c)
      ∧ (∀ x, Instr.release 0 ≠ .deviceResetEnd x) ∧ ∀ p, Instr.release 0 ≠ .reserve p :=
  ⟨⟨_, rfl⟩, by simp, by simp, by simp⟩

/-- The step of `laden` takes the RELEASE that ends lease 5, under every law at once. -/
theorem witness_step : ∃ t, step (queued (.release 0) laden) = .next t := ⟨_, rfl⟩

theorem witness_StepKeepsLeaseTable :
    (∃ t, step (queued (.release 0) laden) = .next t) ∧ LeaseTableLaw (queued (.release 0) laden)
      ∧ WaitQueueLaw (queued (.release 0) laden) ∧ DisjointLaw (queued (.release 0) laden) :=
  ⟨witness_step, laden_leases.1, laden_claims.1, laden_leases.2⟩

theorem witness_StepKeepsWaitQueue :
    (∃ t, step (queued (.release 0) laden) = .next t) ∧ WaitQueueLaw (queued (.release 0) laden)
      ∧ OwnLineLaw (queued (.release 0) laden) ∧ LeaseTableLaw (queued (.release 0) laden)
      ∧ ReservationLaw (queued (.release 0) laden) :=
  ⟨witness_step, laden_claims.1, laden_claims.2.1, laden_leases.1, laden_claims.2.2.1⟩

theorem witness_StepLeavesNoGrantableClaim :
    (∃ t, step (queued .sampleTick laden) = .next t ∧ ∃ c, t.queue = [] ++ c :: []) ∧
      NoGrantableLaw (queued .sampleTick laden) := ⟨⟨_, rfl, ⟨_, rfl⟩⟩, laden_claims.2.2.2⟩

/-- The clause of R36 that a full table keeps a claim waiting: 16 leases, a claim on a free line. -/
theorem witness_StepLeavesNoGrantableClaim_full_table :
    NoGrantableLaw { running with
      leases := (List.range 16).map (fun k => leased (k + 1) 0 []), queue := [⟨1, 2, [⟨0, .low⟩], 0, 20⟩] } := by
  unfold NoGrantableLaw; decide

theorem witness_StepKeepsBindings :
    (∃ t, step (queued (.release 0) laden) = .next t) ∧ LeaseTableLaw (queued (.release 0) laden)
      ∧ WaitQueueLaw (queued (.release 0) laden) ∧ DisjointLaw (queued (.release 0) laden)
      ∧ BindingLaw (queued (.release 0) laden) :=
  ⟨witness_step, laden_leases.1, laden_claims.1, laden_leases.2, laden_bindings⟩

theorem witness_StepKeepsFreeLinesPlain :
    (∃ t, step (queued (.release 0) laden) = .next t ∧ t.inReset = false) ∧ FreeLineLaw (queued (.release 0) laden)
      ∧ BindingLaw (queued (.release 0) laden) ∧ (queued (.release 0) laden).inReset = false
      ∧ ((queued (.release 0) laden).line 5).holder = none :=
  ⟨⟨_, rfl, by decide⟩, laden_free_lines, laden_bindings, rfl, by decide⟩

theorem witness_StepKeepsLevelsAndRanges :
    (∃ t, step (queued (.release 0) laden) = .next t) ∧ RawLevelLaw (queued (.release 0) laden)
      ∧ LineRangeLaw (queued (.release 0) laden) := ⟨witness_step, laden_levels⟩

theorem witness_StepKeepsMirrors :
    (∃ t, step (queued (.release 0) laden) = .next t) ∧ MirrorLaw (queued (.release 0) laden)
      ∧ MirrorFollowsLaw (queued (.release 0) laden) := ⟨witness_step, laden_mirrors⟩

theorem witness_StepKeepsArrivalsAlternating :
    (∃ t, step (queued (.release 0) laden) = .next t) ∧ ArrivalLaw (queued (.release 0) laden)
      ∧ ResetLaw (queued (.release 0) laden) ∧ StartUpLaw (queued (.release 0) laden) :=
  ⟨witness_step, laden_arrivals, fun h => absurd h (by decide), by unfold StartUpLaw; decide⟩

/-- The clause on the end of device reset, where two arrivals of it are in flight. -/
theorem witness_StepKeepsArrivalsAlternating_start_up :
    (∃ t, step (queued (.arrival 9) highLines) = .next t) ∧ ResetLaw (queued (.arrival 9) highLines)
      ∧ StartUpLaw (queued (.arrival 9) highLines) ∧ (queued (.arrival 9) highLines).startUp = [4, 9] :=
  ⟨⟨_, rfl⟩, fun h => absurd h (by decide), by unfold StartUpLaw; decide, by decide⟩

theorem witness_StepKeepsEventQueues :
    (∃ t, step (queued (.release 0) laden) = .next t) ∧ EventQueueLaw (queued (.release 0) laden) :=
  ⟨witness_step, laden_queues⟩

theorem witness_StepKeepsPortsAndResetValues :
    (∃ t, step (queued (.release 0) laden) = .next t) ∧ ResetLaw (queued (.release 0) laden)
      ∧ PortLaw (queued (.release 0) laden) :=
  ⟨witness_step, fun h => absurd h (by decide), laden_ports⟩

/-- The boundaries of the three ranges of R189, in nanoseconds. -/
theorem witness_DeviceResetByPulseLength :
    10000 ≤ 10000 ∧ 999 < 1000 ∧ (1000 ≤ 1000 ∧ 1000 < 10000) ∧ 1000 ≤ 9999 ∧ 9999 < 10000 := by decide

theorem witness_DeviceResetEndSamplesStrapsAndLines :
    (State.reset.inReset = true ∧ ResetLaw State.reset) ∧ running.inReset = false := ⟨⟨rfl, fun _ => rfl⟩, rfl⟩

/-- `running` with a line command of port 0 and a SUBSCRIBE of port 1 that have each let a tick pass. -/
def waited : State :=
  ((written 0 .readLines [] (written 1 .subscribe [1, 0, 0, 2, 0] running)).updatePort 0 fun q =>
    { q with ticked := true }).updatePort 1 fun q => { q with ticked := true }

theorem witness_MillisecondTickCountsAndTests :
    (laden.inReset = false ∧ laden.overdue .lineMatrix = false)
      ∧ (waited.inReset = false ∧ waited.overdue .lineMatrix = true)
      ∧ ((acknowledging 1).port 0).timedOut = false ∧ (acknowledging 0).inReset = false
      ∧ (acknowledging 0).overdue .lineMatrix = false ∧ ((acknowledging 0).port 0).timedOut = true := by decide

/-- `outAt1` on the last millisecond of its settle. -/
def settling : State := withLine 3 (fun r => { r with settle := 1 }) outAt1

theorem witness_SettleExpiryTestsTheLine :
    (settling.inReset = false ∧ (settling.line 3).settle = 1 ∧ settling.overdue .lineMatrix = false)
      ∧ ((settling.line 3).holder = some ⟨14, 1⟩ ∧ (settling.line 3).mismatch = false
        ∧ (settling.line 3).driven = some true ∧ (settling.input 3).filtered ≠ true)
      ∧ ((withLine 0 (fun r => { r with settle := 1 }) outAt1).line 0).holder = none
      ∧ ((withLine 3 (fun r => { r with mismatch := true }) settling).line 3).mismatch = true
      ∧ ((withLine 3 (fun r => { r with drive := .hiz }) settling).line 3).driven = none
      ∧ ((withLine 3 (fun r => { r with level := false }) settling).line 3).driven = some (outAt1.input 3).filtered
      ∧ (outAt1.line 3).settle ≠ 1 ∧ ((withLine 3 (fun r => { r with settle := 2 }) outAt1).line 3).settle ≠ 1
      ∧ waited.overdue .lineMatrix = true := by
  decide

theorem witness_NumbersAreTheFirstNotInUse :
    1 ≤ wrapping.leaseCounter ∧ wrapping.leaseCounter ≤ 255 ∧ 1 ≤ wrapping.ticketCounter ∧ wrapping.ticketCounter ≤ 255
      ∧ wrapping.leases.length < 16 ∧ wrapping.queue.length < 8 := by decide

theorem witness_ArbiterServesPortsInTurn :
    laden.arbiterPick = some 0 ∧ laden.presents 0 = true ∧ running.arbiterPick = none := by decide

/-- A claim of host 3 on L20 among `leases` live leases over L0 on, and with `claims` waiting. -/
def claiming (leases : Nat) (claims : List Claim) (waitLimit : Byte) : State :=
  written 3 .claim [0, waitLimit, 1, 20] { running with
    leases := (allLines.take leases).map fun i => leased (i.val + 1) 0 [⟨i, .float⟩], queue := claims }

/-- Seven claims on L0, of hosts 0, 0, 1, 1, 2, 2 and 3. -/
def sevenClaims : List Claim :=
  [(1, 0), (2, 0), (3, 1), (4, 1), (5, 2), (6, 2), (7, 3)].map fun (x : Nat × Host) => ⟨x.1, x.2, [⟨0, .float⟩], 0, 20⟩

theorem witness_ClaimGrantsFreeLines :
    Served (claiming 15 [] 0) 3 .claim 0x41
      ∧ claimEntries (((claiming 15 [] 0).port 3).params.drop 3) = some [⟨20, .float⟩]
      ∧ (∀ e ∈ [(⟨20, .float⟩ : LineEntry)], HostSet.has ((claiming 15 [] 0).allowedOn e.line) 3 = true
        ∧ (∀ l ∈ (claiming 15 [] 0).leases, coversLine l.entries e.line = false)
        ∧ ∀ c ∈ (claiming 15 [] 0).queue, coversLine c.entries e.line = false)
      ∧ (claiming 15 [] 0).leases.length < 16 := by
  unfold Served Waiting; decide

theorem witness_ClaimWaitsAtTheTail :
    Served (claiming 16 sevenClaims 1) 3 .claim 0x41
      ∧ claimEntries (((claiming 16 sevenClaims 1).port 3).params.drop 3) = some [⟨20, .float⟩]
      ∧ (∀ e ∈ [(⟨20, .float⟩ : LineEntry)], HostSet.has ((claiming 16 sevenClaims 1).allowedOn e.line) 3 = true
        ∧ (∀ l ∈ (claiming 16 sevenClaims 1).leases, l.holder = 3 → coversLine l.entries e.line = false)
        ∧ ∀ c ∈ (claiming 16 sevenClaims 1).queue, c.host = 3 → coversLine c.entries e.line = false)
      ∧ 16 ≤ (claiming 16 sevenClaims 1).leases.length ∧ (claiming 16 sevenClaims 1).arg 3 1 ≠ 0
      ∧ (claiming 16 sevenClaims 1).queue.length < 8
      ∧ ((claiming 16 sevenClaims 1).queue.filter fun c => c.host == 3).length < 2 := by
  unfold Served Waiting; decide

/-- `laden` with the command of port 0 answered, so that another port's is served. -/
def calm : State := laden.updatePort 0 fun q => { q with slot := .empty }

/-- The other clauses of R15: a line that another host's lease and another host's waiting claim cover. -/
theorem witness_ClaimWaitsAtTheTail_contested :
    Served (written 3 .claim [0, 255, 1, 0] calm) 3 .claim 0x41
      ∧ claimEntries (((written 3 .claim [0, 255, 1, 0] calm).port 3).params.drop 3) = some [⟨0, .float⟩]
      ∧ HostSet.has (calm.allowedOn 0) 3 = true ∧ (∀ l ∈ calm.leases, l.holder = 3 → coversLine l.entries 0 = false)
      ∧ (∀ c ∈ calm.queue, c.host = 3 → coversLine c.entries 0 = false)
      ∧ (∃ l ∈ calm.leases, coversLine l.entries 0 = true) ∧ (∃ c ∈ calm.queue, coversLine c.entries 0 = true)
      ∧ (written 3 .claim [0, 255, 1, 0] calm).arg 3 1 = 255 := by
  unfold Served Waiting; decide

theorem witness_ClaimRefusalsInOrder :
    (Served (written 0 .claim [0, 0, 0] running) 0 .claim 0x41
        ∧ claimEntries (((written 0 .claim [0, 0, 0] running).port 0).params.drop 3) = none)
      ∧ Served (written 0 .claim [0, 0, 1, 23] { running with allowed := running.allowed.set 23 0b1110#4 }) 0 .claim 0x41
      ∧ HostSet.has ({ running with allowed := running.allowed.set 23 0b1110#4 }.allowedOn 23) 0 = false
      ∧ Served (written 1 .claim [0, 0, 1, 15] (withLease (leased 8 1 [⟨15, .float⟩]) running)) 1 .claim 0x41
      ∧ (∃ l ∈ (withLease (leased 8 1 [⟨15, .float⟩]) running).leases, l.holder = 1 ∧ coversLine l.entries 15 = true)
      ∧ Served (written 2 .claim [0, 0, 1, 15] (withLease (leased 8 1 [⟨15, .float⟩]) running)) 2 .claim 0x41
      ∧ (written 2 .claim [0, 0, 1, 15] (withLease (leased 8 1 [⟨15, .float⟩]) running)).arg 2 1 = 0
      ∧ Served (claiming 16 [] 0) 3 .claim 0x41 ∧ 16 ≤ (claiming 16 [] 0).leases.length ∧ (claiming 16 [] 0).arg 3 1 = 0
      ∧ Served (claiming 16 (sevenClaims ++ sevenClaims.take 1) 1) 3 .claim 0x41
      ∧ 8 ≤ (claiming 16 (sevenClaims ++ sevenClaims.take 1) 1).queue.length
      ∧ Served (claiming 16 [⟨1, 3, [⟨0, .float⟩], 0, 20⟩, ⟨2, 3, [⟨1, .float⟩], 0, 20⟩] 1) 3 .claim 0x41
      ∧ 2 ≤ ((claiming 16 [⟨1, 3, [⟨0, .float⟩], 0, 20⟩, ⟨2, 3, [⟨1, .float⟩], 0, 20⟩] 1).queue.filter
          fun c => c.host == 3).length := by
  unfold Served Waiting; decide

theorem witness_CancelClaimRemovesTheCallersClaim :
    (Served (written 2 .cancelClaim [1] calm) 2 .cancelClaim 0x41
        ∧ (∃ c ∈ calm.queue, c.ticket = (written 2 .cancelClaim [1] calm).arg 2 0 ∧ c.host = 2))
      ∧ (Served (written 2 .cancelClaim [0] calm) 2 .cancelClaim 0x41
        ∧ (written 2 .cancelClaim [0] calm).arg 2 0 = 0)
      ∧ (Served (written 1 .cancelClaim [1] calm) 1 .cancelClaim 0x41
        ∧ ∀ c ∈ calm.queue, c.ticket = (written 1 .cancelClaim [1] calm).arg 1 0 → c.host ≠ 1) := by
  unfold Served Waiting; decide

theorem witness_WaitLapseRemovesTheClaim :
    calm.inReset = false ∧ WaitQueueLaw calm
      ∧ (∃ c ∈ ({ calm with queue := calm.queue.map fun c => { c with remaining := 0 } } : State).queue, c.remaining = 0)
      ∧ (∀ c ∈ ({ calm with queue := calm.queue.map fun c => { c with remaining := 1 } } : State).queue,
          c.ticket = 1 → c.remaining ≠ 0)
      ∧ ∀ c ∈ calm.queue, c.ticket = 2 → c.remaining ≠ 0 := by
  refine ⟨rfl, laden_claims.1, ?_⟩; decide

theorem witness_ReleaseRevokeAndExpiryEndTheLease :
    LeaseTableLaw laden
      ∧ (Served laden 0 .release 0x41 ∧ ∃ l ∈ laden.leases, l.id = laden.arg 0 0 ∧ l.holder = 0)
      ∧ (Served (written 3 .revoke [7] calm) 3 .revoke 0x41 ∧ calm.supervisor = some 3
        ∧ ∃ l ∈ calm.leases, l.id = (written 3 .revoke [7] calm).arg 3 0)
      ∧ (Served (written 3 .revoke [0] calm) 3 .revoke 0x41
        ∧ ∀ m ∈ calm.leases, m.id ≠ (written 3 .revoke [0] calm).arg 3 0)
      ∧ (∃ l ∈ fourFallbacks.leases, l.remaining = some 0) ∧ (∀ m ∈ laden.leases, m.id = 5 → m.remaining ≠ some 0)
      ∧ ∀ m ∈ running.leases, m.id = 5 → m.remaining ≠ some 0 := by
  refine ⟨laden_leases.1, ?_⟩; unfold Served Waiting; decide

theorem witness_RenewRestartsTheTimer :
    Served (written 0 .renew [5] laden) 0 .renew 0x41 ∧ LeaseTableLaw laden
      ∧ ∃ l ∈ laden.leases, l.id = (written 0 .renew [5] laden).arg 0 0 ∧ l.holder = 0 := by
  exact ⟨by unfold Served Waiting; decide, laden_leases.1, by decide⟩

theorem witness_RenewAllRenewsEveryLease : Served (written 0 .renewAll [] laden) 0 .renewAll 0x41 := by
  unfold Served Waiting; decide

theorem witness_QueryLeaseReportsTheRecord :
    LeaseTableLaw laden
      ∧ (Served (written 0 .queryLease [0] laden) 0 .queryLease 0x41 ∧ (written 0 .queryLease [0] laden).arg 0 0 = 0)
      ∧ (Served (written 0 .queryLease [7] laden) 0 .queryLease 0x41
        ∧ ∃ l ∈ laden.leases, l.id = (written 0 .queryLease [7] laden).arg 0 0)
      ∧ Served (written 0 .queryLease [255] laden) 0 .queryLease 0x41
      ∧ (written 0 .queryLease [255] laden).arg 0 0 ≠ 0
      ∧ ∀ l ∈ laden.leases, l.id ≠ (written 0 .queryLease [255] laden).arg 0 0 := by
  refine ⟨laden_leases.1, ?_⟩; unfold Served Waiting; decide

theorem witness_HolderCheckRefusesOtherHosts :
    LeaseTableLaw laden
      ∧ Served (written 0 .release [0] laden) 0 .release 0x41 ∧ Served (written 0 .renew [0] laden) 0 .renew 0x41
      ∧ Served (written 0 .offer [0, 1] laden) 0 .offer 0x41
      ∧ (∀ l ∈ laden.leases, l.id ≠ (written 0 .release [0] laden).arg 0 0)
      ∧ Served (written 0 .release [7] laden) 0 .release 0x41
      ∧ ∃ l ∈ laden.leases, l.id = (written 0 .release [7] laden).arg 0 0 ∧ l.holder ≠ 0 := by
  refine ⟨laden_leases.1, ?_⟩; unfold Served Waiting; decide

theorem witness_OfferIsJudgedAndMade :
    LeaseTableLaw laden
      ∧ (Served (written 0 .offer [5, 4] laden) 0 .offer 0x41 ∧ 3 < (written 0 .offer [5, 4] laden).arg 0 1
        ∧ ∃ l ∈ laden.leases, l.id = (written 0 .offer [5, 4] laden).arg 0 0 ∧ l.holder = 0 ∧ l.offer = none)
      ∧ (written 0 .offer [5, 0] laden).arg 0 1 = (0 : Host).val
      ∧ (Served (written 1 .offer [7, 3] calm) 1 .offer 0x41
        ∧ (written 1 .offer [7, 3] calm).arg 1 1 = (3 : Host).val
        ∧ ∃ l ∈ calm.leases, l.id = (written 1 .offer [7, 3] calm).arg 1 0 ∧ l.holder = 1 ∧ l.offer ≠ none)
      ∧ (Served (written 0 .offer [5, 3] { laden with allowed := laden.allowed.set 1 0b0111#4 }) 0 .offer 0x41
        ∧ HostSet.has ({ laden with allowed := laden.allowed.set 1 0b0111#4 }.allowedOn 1) 3 = false)
      ∧ ∀ l ∈ laden.leases, ∀ e ∈ l.entries, HostSet.has (laden.allowedOn e.line) 3 = true := by
  refine ⟨laden_leases.1, ?_⟩; unfold Served Waiting; decide

/-- The three outcomes of R50 for ACCEPT, and the two of R53 for DECLINE. -/
theorem witness_AcceptIsJudged :
    LeaseTableLaw calm
      ∧ Served (written 2 .accept [0] calm) 2 .accept 0x41 ∧ (written 2 .accept [0] calm).arg 2 0 = 0
      ∧ (Served (written 2 .accept [5] calm) 2 .accept 0x41
        ∧ ∀ l ∈ calm.leases, l.id = (written 2 .accept [5] calm).arg 2 0 → l.offer.map (fun o => o.target) ≠ some 2)
      ∧ Served (written 2 .accept [7] calm) 2 .accept 0x41
      ∧ (∃ l ∈ calm.leases, l.id = (written 2 .accept [7] calm).arg 2 0 ∧ l.offer.map (fun o => o.target) = some 2
        ∧ ∀ e ∈ l.entries, HostSet.has (calm.allowedOn e.line) 2 = true)
      ∧ Served (written 2 .accept [7] { calm with allowed := calm.allowed.set 2 0b1011#4 }) 2 .accept 0x41
      ∧ HostSet.has ({ calm with allowed := calm.allowed.set 2 0b1011#4 }.allowedOn 2) 2 = false := by
  refine ⟨laden_leases.1, ?_⟩; unfold Served Waiting; decide

theorem witness_AcceptTransfersTheLease :
    Served (written 2 .accept [7] calm) 2 .accept 0x41 ∧ LeaseTableLaw calm
      ∧ (∃ l ∈ calm.leases, l.id = (written 2 .accept [7] calm).arg 2 0 ∧ l.offer = some ⟨2, 200⟩
        ∧ (∀ e ∈ l.entries, HostSet.has (calm.allowedOn e.line) 2 = true)
        ∧ ∀ c ∈ calm.queue, c.host = 2 → sharesLine c.entries l.entries = false)
      ∧ ∃ l ∈ calm.leases, l.id = 7 ∧ ∃ c ∈ ({ calm with queue := [⟨1, 2, [⟨2, .low⟩], 0, 20⟩] } : State).queue,
          c.host = 2 ∧ sharesLine c.entries l.entries = true := by
  exact ⟨by unfold Served Waiting; decide, laden_leases.1, by decide, by decide⟩

theorem witness_DeclineReturnsTheLease :
    LeaseTableLaw calm ∧ Served (written 2 .decline [0] calm) 2 .decline 0x41
      ∧ (written 2 .decline [0] calm).arg 2 0 = 0 ∧ Served (written 2 .decline [7] calm) 2 .decline 0x41
      ∧ (∃ l ∈ calm.leases, l.id = (written 2 .decline [7] calm).arg 2 0 ∧ l.offer.map (fun o => o.target) = some 2)
      ∧ Served (written 3 .decline [7] calm) 3 .decline 0x41
      ∧ ∀ l ∈ calm.leases, l.id = 7 → l.offer.map (fun o => o.target) ≠ some 3 := by
  refine ⟨laden_leases.1, ?_⟩; unfold Served Waiting; decide

theorem witness_OfferLapseReturnsTheLease :
    offered.inReset = false ∧ LeaseTableLaw offered
      ∧ (∃ l ∈ offered.leases, l.offer = some ⟨2, 0⟩)
      ∧ (∀ l ∈ laden.leases, l.id = 7 → ∀ o ∈ l.offer, o.remaining ≠ 0)
      ∧ ∀ l ∈ laden.leases, l.id = 5 → ∀ o ∈ l.offer, o.remaining ≠ 0 := by
  unfold LeaseTableLaw Lease.Ok EntriesOk; decide

theorem witness_SupervisorCommandsNeedTheSupervisorPort :
    laden.supervisor ≠ some 0 ∧ Served (written 0 .revoke [5] laden) 0 .revoke 0x41
      ∧ Served (written 0 .reserve [0, 0, 0, 255] laden) 0 .reserve 0x41
      ∧ Served (written 0 .clearHost [255] laden) 0 .clearHost 0x41
      ∧ Served (written 0 .detach [] laden) 0 .detach 0x41 := by
  unfold Served Waiting; decide

theorem witness_ReserveReplacesSetsAndPurges :
    calm.supervisor = some 3
      ∧ (Served (written 3 .reserve [0, 0, 0, 15] calm) 3 .reserve 0x41
        ∧ paramMask ((written 3 .reserve [0, 0, 0, 15] calm).port 3).params 0 = 0)
      ∧ (Served (written 3 .reserve [1, 0, 0, 16] calm) 3 .reserve 0x41
        ∧ 15 < (written 3 .reserve [1, 0, 0, 16] calm).arg 3 3)
      ∧ (Served (written 3 .reserve [1, 0, 0x80, 0b1011] calm) 3 .reserve 0x41
        ∧ paramMask ((written 3 .reserve [1, 0, 0x80, 0b1011] calm).port 3).params 0 ≠ 0
        ∧ (written 3 .reserve [1, 0, 0x80, 0b1011] calm).arg 3 3 = (0b1011#4).toNat
        ∧ (∃ c ∈ calm.queue,
            excludedBy (paramMask ((written 3 .reserve [1, 0, 0x80, 0b1011] calm).port 3).params 0) 0b1011#4 c = true))
      ∧ ∀ c ∈ calm.queue, excludedBy 0x800000#24 0#4 c = false := by
  unfold Served Waiting; decide

theorem witness_DetachAndClearHostTearTheHostDown :
    LeaseTableLaw calm ∧ DisjointLaw calm ∧ BindingLaw calm
      ∧ Served (written 0 .detach [] calm) 0 .detach 0x41
      ∧ (Served (written 3 .clearHost [3] calm) 3 .clearHost 0x41 ∧ calm.supervisor = some 3
        ∧ (written 3 .clearHost [3] calm).arg 3 0 = (3 : Host).val)
      ∧ Served (written 3 .clearHost [4] calm) 3 .clearHost 0x41 ∧ 3 < (written 3 .clearHost [4] calm).arg 3 0 := by
  refine ⟨laden_leases.1, laden_leases.2, laden_bindings, ?_⟩; unfold Served Waiting; decide

/-- The refusals of the form: the first value out of each range. -/
theorem witness_LineCommandRefusalsInOrder_form :
    (Waiting (written 0 .setLevel [5, 0, 0, 0, 0, 0, 0] laden) 0 .setLevel 0x41
        ∧ paramMask ((written 0 .setLevel [5, 0, 0, 0, 0, 0, 0] laden).port 0).params 1 = 0)
      ∧ (Waiting (written 0 .configure [5, 24, 0, 0, 0, 0, 0, 0] laden) 0 .configure 0x41
        ∧ (written 0 .configure [5, 24, 0, 0, 0, 0, 0, 0] laden).arg 0 5 ≠ 1
        ∧ 23 < (written 0 .configure [5, 24, 0, 0, 0, 0, 0, 0] laden).arg 0 1)
      ∧ 1 < (written 0 .configure [5, 0, 2, 0, 0, 0, 0, 0] laden).arg 0 2
      ∧ 3 < (written 0 .configure [5, 0, 0, 4, 0, 1, 0, 0] laden).arg 0 3
      ∧ (2 < (written 0 .configure [5, 0, 0, 0, 3, 1, 0, 0] laden).arg 0 4
        ∧ (written 0 .configure [5, 0, 0, 0, 3, 1, 0, 0] laden).arg 0 5 = 1)
      ∧ 1 < (written 0 .configure [5, 0, 0, 0, 0, 2, 0, 0] laden).arg 0 5
      ∧ Waiting (written 0 .pulse [5, 0, 0, 0, 0] laden) 0 .pulse 0x41
      ∧ param16 ((written 0 .pulse [5, 0, 0, 0, 0] laden).port 0).params 3 = 0
      ∧ 1 < (written 0 .pulse [5, 0, 2, 1, 0] laden).arg 0 2 := by
  unfold Waiting; decide

/-- The refusals that the binding and the function give: no lease, another holder, and a line in the way. -/
theorem witness_LineCommandRefusalsInOrder :
    ((written 0 .setLevel [0, 1, 0, 0, 1, 0, 0] laden).arg 0 0 = 0
        ∧ [0] = maskLines (paramMask ((written 0 .setLevel [0, 1, 0, 0, 1, 0, 0] laden).port 0).params 1))
      ∧ (∀ x : Line, ∀ b ∈ (laden.line x).holder, b.lease ≠ 6)
      ∧ ((∃ x : Line, ∃ b ∈ (laden.line x).holder, b.lease = 5) ∧ (laden.line 2).holder ≠ some ⟨5, 0⟩
        ∧ [2].map (fun x : Line => x.val) = [(written 0 .pulse [5, 2, 1, 1, 0] laden).arg 0 1])
      ∧ ((laden.line 0).holder = some ⟨5, 0⟩ ∧ (laden.line 0).pulsing = true
        ∧ [0].map (fun x : Line => x.val) = [(written 0 .configure [5, 0, 1, 3, 2, 0, 0, 0] laden).arg 0 1])
      ∧ (laden.line 1).holder = some ⟨5, 0⟩ ∧ (laden.line 1).function ≠ .plain := by decide

theorem witness_SetLevelWritesTheNamedLines :
    Waiting (written 1 .setLevel [14, 8, 0, 0, 0, 0, 0] outAt1) 1 .setLevel 0x41
      ∧ (written 1 .setLevel [14, 8, 0, 0, 0, 0, 0] outAt1).arg 1 0 ≠ 0
      ∧ paramMask ((written 1 .setLevel [14, 8, 0, 0, 0, 0, 0] outAt1).port 1).params 1 ≠ 0
      ∧ ∀ i ∈ maskLines (paramMask ((written 1 .setLevel [14, 8, 0, 0, 0, 0, 0] outAt1).port 1).params 1),
        (outAt1.line i).holder = some ⟨(written 1 .setLevel [14, 8, 0, 0, 0, 0, 0] outAt1).arg 1 0, 1⟩
          ∧ (outAt1.line i).function = .plain := by
  unfold Waiting; decide

theorem witness_ConfigureWritesThePlainSettings :
    Waiting (written 1 .configure [8, 15, 1, 3, 2, 0, 0, 0] mirroring) 1 .configure 0x41
      ∧ (written 1 .configure [8, 15, 1, 3, 2, 0, 0, 0] mirroring).arg 1 1 = (15 : Line).val
      ∧ directionOf ((written 1 .configure [8, 15, 1, 3, 2, 0, 0, 0] mirroring).arg 1 2) = some .output
      ∧ driveOf ((written 1 .configure [8, 15, 1, 3, 2, 0, 0, 0] mirroring).arg 1 3) = some .pushPull
      ∧ pullOf ((written 1 .configure [8, 15, 1, 3, 2, 0, 0, 0] mirroring).arg 1 4) = some .down
      ∧ (written 1 .configure [8, 15, 1, 3, 2, 0, 0, 0] mirroring).arg 1 5 = 0
      ∧ (mirroring.line 15).holder = some ⟨8, 1⟩ ∧ (mirroring.line 15).pulsing = false
      ∧ mirroring.followsSource 15 2 = true := by
  unfold Waiting; decide

theorem witness_ConfigureMirrorFollowsOrFaults :
    Waiting (written 0 .configure [3, 2, 1, 3, 2, 1, 15, 1] mirroring) 0 .configure 0x41
      ∧ (mirroring.line 2).holder = some ⟨3, 0⟩ ∧ (mirroring.line 2).pulsing = false
      ∧ (written 0 .configure [3, 2, 1, 3, 2, 1, 15, 1] mirroring).arg 0 2 = 1
      ∧ (written 0 .configure [3, 2, 1, 3, 2, 1, 15, 1] mirroring).arg 0 6 = (15 : Line).val
      ∧ (written 0 .configure [3, 2, 1, 3, 2, 1, 15, 1] mirroring).arg 0 7 = 1
      ∧ (mirroring.line 15).direction = .input ∧ ((withLine 15 (driving .hiz false) mirroring).line 15).direction = .output
      ∧ (written 0 .configure [3, 2, 0, 3, 2, 1, 15, 1] mirroring).arg 0 2 = 0
      ∧ 23 < (written 0 .configure [3, 2, 1, 3, 2, 1, 24, 1] mirroring).arg 0 6
      ∧ (written 0 .configure [3, 2, 1, 3, 2, 1, 2, 1] mirroring).arg 0 6 = (2 : Line).val
      ∧ 1 < (written 0 .configure [3, 2, 1, 3, 2, 1, 15, 2] mirroring).arg 0 7 := by
  unfold Waiting; decide

theorem witness_PulseTakesThePulseLevel :
    Waiting (written 1 .pulse [14, 3, 0, 255, 255] outAt1) 1 .pulse 0x41
      ∧ (written 1 .pulse [14, 3, 0, 255, 255] outAt1).arg 1 0 = 14
      ∧ (written 1 .pulse [14, 3, 0, 255, 255] outAt1).arg 1 1 = (3 : Line).val
      ∧ (written 1 .pulse [14, 3, 0, 255, 255] outAt1).arg 1 2 = 0
      ∧ (written 1 .pulse [14, 3, 0, 255, 255] outAt1).arg 1 3 + 256 * (written 1 .pulse [14, 3, 0, 255, 255] outAt1).arg 1 4
        = 65535
      ∧ (outAt1.line 3).holder = some ⟨14, 1⟩ ∧ (outAt1.line 3).function = .plain ∧ (outAt1.line 3).direction = .output
      ∧ ((withLine 3 (fun r => { r with direction := .input }) outAt1).line 3).direction = .input := by
  unfold Waiting; decide

theorem witness_PulseCompletionRevertsTheLevel :
    ((withLine 3 (fun r => { r with function := .pulse false true 0 }) outAt1).line 3).function = .pulse false true 0
      ∧ ((withLine 3 (fun r => { r with function := .pulse false true 0 }) outAt1).line 3).holder = some ⟨14, 1⟩
      ∧ (withLine 3 (fun r => { r with function := .pulse false true 1 }) outAt1).inReset = false
      ∧ ∀ level revert : Level,
        ((withLine 3 (fun r => { r with function := .pulse false true 1 }) outAt1).line 3).function
          ≠ .pulse level revert 0 := by decide

theorem witness_LineQueriesReportAndChangeNothing :
    Waiting (written 0 .readLines [] laden) 0 .readLines 0x41 ∧ Waiting (written 0 .queryLine [23] laden) 0 .queryLine 0x41
      ∧ (written 0 .queryLine [23] laden).arg 0 0 = (23 : Line).val
      ∧ Waiting (written 0 .queryLine [24] laden) 0 .queryLine 0x41 ∧ 23 < (written 0 .queryLine [24] laden).arg 0 0 := by
  unfold Waiting; decide

theorem witness_ExternalChangeMovesTheRawLevel : laden.inReset = false ∧ State.reset.inReset = true := by decide

theorem witness_FilteredReportMovesTheMirrors :
    laden.inReset = false ∧ MirrorLaw laden ∧ takeChange 4 laden.reports = some (true, [])
      ∧ takeChange 5 laden.reports = none
      ∧ takeChange 4 [[⟨3, true⟩], [⟨4, false⟩, ⟨3, false⟩]] = some (false, [[⟨3, true⟩], [⟨3, false⟩]])
      ∧ takeChange 4 [[⟨3, true⟩, ⟨4, false⟩]] = none := ⟨rfl, laden_mirrors.1, by decide, by decide, by decide, by decide⟩

theorem witness_ArrivalSetsTheSeenLevel :
    laden.inReset = false ∧ takeChange 2 laden.arrivals = some (true, []) ∧ takeChange 3 laden.arrivals = none
      ∧ takeChange 9 [[⟨8, true⟩], [⟨9, true⟩, ⟨8, false⟩]] = some (true, [[⟨8, true⟩], [⟨8, false⟩]]) := by decide

theorem witness_SampleTickFiltersEveryLine :
    (laden.inReset = false ∧ laden.overdue .inputMonitor = false ∧ laden.startUp = [])
      ∧ (waited.inReset = false ∧ waited.overdue .inputMonitor = true)
      ∧ highLines.inReset = false ∧ highLines.startUp ≠ [] := by decide

theorem witness_SubscriptionsFollowTheMask :
    (Waiting (written 0 .subscribe [0, 0, 0x80, 2, 1] laden) 0 .subscribe 0x41
        ∧ paramMask ((written 0 .subscribe [0, 0, 0x80, 2, 1] laden).port 0).params 0 ≠ 0
        ∧ edgeModeOf ((written 0 .subscribe [0, 0, 0x80, 2, 1] laden).arg 0 3) = some .both
        ∧ filterOf ((written 0 .subscribe [0, 0, 0x80, 2, 1] laden).arg 0 4) = some .filtered)
      ∧ laden.startUp = [] ∧ highLines.startUp ≠ []
      ∧ paramMask ((written 0 .subscribe [0, 0, 0, 2, 1] laden).port 0).params 0 = 0
      ∧ 2 < (written 0 .subscribe [0, 0, 0x80, 3, 1] laden).arg 0 3
      ∧ 1 < (written 0 .subscribe [0, 0, 0x80, 2, 2] laden).arg 0 4
      ∧ Waiting (written 0 .unsubscribe [1, 0, 0] laden) 0 .unsubscribe 0x41
      ∧ Waiting (written 0 .unsubscribe [0, 0, 0] laden) 0 .unsubscribe 0x41
      ∧ paramMask ((written 0 .unsubscribe [0, 0, 0] laden).port 0).params 0 = 0 := by
  unfold Waiting; decide

/-- A queue of two records after seq 254, which the acknowledgement of both wraps past. -/
def polled (ps : List Byte) : State :=
  written 1 .poll ps (running.updateQueue 1 fun _ => ⟨records [255, 0], 1, 254, 0, true, true⟩)

theorem witness_PollAcknowledgesThroughTheSeq :
    Waiting (polled [1, 0, 7]) 1 .poll 0x41
      ∧ ((polled [1, 0, 7]).eventQueue 1).Ok
      ∧ (1 ≤ (polled [1, 0, 7]).arg 1 2 ∧ (polled [1, 0, 7]).arg 1 2 ≤ 7 ∧ (polled [1, 0, 7]).arg 1 0 = 1
        ∧ param ((polled [1, 0, 7]).port 1).params 1 = ((polled [1, 0, 7]).eventQueue 1).lastAck + BitVec.ofNat 8 2
        ∧ 2 ≤ ((polled [1, 0, 7]).eventQueue 1).records.length)
      ∧ param ((polled [1, 254, 1]).port 1).params 1 = ((polled [1, 254, 1]).eventQueue 1).lastAck
      ∧ (polled [0, 0, 1]).arg 1 0 = 0
      ∧ (∀ j, j ≤ ((polled [1, 1, 1]).eventQueue 1).records.length →
          param ((polled [1, 1, 1]).port 1).params 1 ≠ ((polled [1, 1, 1]).eventQueue 1).lastAck + BitVec.ofNat 8 j)
      ∧ 1 < (polled [2, 0, 1]).arg 1 0 ∧ (polled [0, 0, 0]).arg 1 2 = 0 ∧ 7 < (polled [0, 0, 8]).arg 1 2 := by
  refine ⟨by unfold Waiting; decide, ⟨by decide, ⟨by decide, by decide, trivial⟩, by decide⟩, by decide, by decide, by decide,
    ?_, by decide⟩
  intro j hj
  have h : j ≤ 2 := hj
  interval_cases j <;> decide

theorem witness_AttentionSetsTheEnable :
    Waiting (written 0 .attention [1] laden) 0 .attention 0x41 ∧ (written 0 .attention [1] laden).arg 0 0 = 1
      ∧ (written 0 .attention [0] laden).arg 0 0 = 0 ∧ 1 < (written 0 .attention [2] laden).arg 0 0 := by
  unfold Waiting; decide

theorem witness_OwnersPlaceTheirResult :
    (Instr.ownerCommand (.release 0) = some (0, .release) ∧ Waiting laden 0 .release 0x41
        ∧ Instr.takesParams (.release 0) (laden.port 0).params = true
        ∧ (Cmd.release.owner = .leaseController → laden.arbiterPick = some 0)
        ∧ (Cmd.release = .subscribe → laden.startUp = []))
      ∧ LeaseTableLaw laden ∧ (∀ tag, (laden.port 0).slot ≠ .pending tag .renew)
      ∧ Cmd.release.owner = .leaseController ∧ laden.arbiterPick ≠ some 1
      ∧ Instr.ownerCommand (.subscribe 0) = some (0, .subscribe) ∧ highLines.startUp ≠ []
      ∧ Instr.ownerCommand (.configure 0) = some (0, .configure)
      ∧ Instr.takesParams (.configure 0) ((written 0 .configure [5, 0, 1, 3, 2, 1, 3, 0] laden).port 0).params = false
      ∧ Instr.takesParams (.configureMirror 0) ((written 0 .configure [5, 0, 1, 3, 2, 2, 3, 0] laden).port 0).params = false := by
  refine ⟨?_, laden_leases.1, fun tag h => ?_, ?_⟩
  · unfold Waiting; decide
  · cases h
  · decide

theorem witness_RefusedLeaseCommandsChangeNothing :
    Served (written 0 .release [6] laden) 0 .release 0x41
      ∧ (∃ t, exec (.release 0) (written 0 .release [6] laden) = .next t
        ∧ (t.port 0).slot = .ready .noLease 0x41 0x12 []) :=
  ⟨by unfold Served Waiting; decide, _, rfl, by decide⟩

theorem witness_RefusedLineCommandsChangeNothing :
    Waiting (written 0 .pulse [5, 0, 1, 1, 0] laden) 0 .pulse 0x41
      ∧ (∃ t, exec (.pulse 0) (written 0 .pulse [5, 0, 1, 1, 0] laden) = .next t
        ∧ (t.port 0).slot = .ready .busy 0x41 0x22 []) :=
  ⟨by unfold Waiting; decide, _, rfl, by decide⟩

/-- `running` with port 1 in RX at the start of a frame. -/
def receiving : State :=
  running.updatePort 1 fun q => { q with txn := .rx, crc := some (crcOf [0x70]), timer := ⟨25, false⟩ }

theorem witness_ConditionsAndTimeoutEndTheTransaction :
    (acknowledging 0).inReset = false ∧ ((acknowledging 0).port 0).txn = .rx ∧ ((acknowledging 0).port 0).timer = ⟨0, true⟩
      ∧ ((running.port 1).txn ≠ .rx ∧ (running.port 1).txn ≠ .tx) ∧ ((acknowledging 1).port 0).timer ≠ ⟨0, true⟩
      ∧ (((acknowledging 0).updatePort 0 fun q => { q with timer := ⟨0, false⟩ }).port 0).timer ≠ ⟨0, true⟩ := by decide

theorem witness_ConditionsAndTimeoutEndTheTransaction_order :
    ∃ t, exec (.busTimeout 0) (acknowledging 0) = .next t ∧ (t.port 0).txn = .aside := ⟨_, rfl, by decide⟩

theorem witness_AddressByteIsJudged :
    ((running.updatePort 1 fun q => { q with txn := .addressing }).port 1).txn = .addressing
      ∧ ((running.port 1).timedOut = false ∧ (running.port 1).txn ≠ .addressing) ∧ (0x72#8).extractLsb' 1 7 ≠ running.busAddress ∧ (0x70#8).extractLsb' 1 7 = running.busAddress
      ∧ (0x70#8).getLsbD 0 = false ∧ (0x71#8).extractLsb' 1 7 = running.busAddress ∧ (0x71#8).getLsbD 0 = true
      ∧ ((written 1 .renew [9] running).port 1).slot = .pending 0x41 .renew
      ∧ ∀ tag cmd, (running.port 1).slot ≠ .pending tag cmd := by
  refine ⟨by decide, by decide, by decide, by decide, by decide, by decide, by decide, by decide, fun tag cmd => ?_⟩
  exact fun h => Slot.noConfusion h

/-- `running` with port 1 standing aside, at a phase of its last ACK. -/
def standing (ack : Acknowledge) (sda : Sda) : State :=
  running.updatePort 1 fun q => { q with txn := .aside, ack := ack, sda := sda }

theorem witness_CommandFrameIsAccepted :
    receiving.inReset = false ∧ (receiving.port 1).txn = .rx ∧ (receiving.port 1).buffer = []
      ∧ (receiving.port 1).timedOut = false ∧ (running.port 1).timedOut = false ∧ [(0x55 : Byte)] ≠ []
      ∧ (receiving.port 1).crc = some (crcOf [addressOf receiving.busAddress false])
      ∧ (List.replicate 32 (0 : Byte)).length ≤ 32 ∧ ([] : List Byte).length ≤ 32 ∧ (running.port 1).txn ≠ .rx
      ∧ (running.port 1).txn ≠ .aside ∧ ((standing .clocked .low).port 1).txn = .aside
      ∧ ((standing .clocked .low).port 1).timedOut = false ∧ (standing .clocked .low).inReset = false := by decide

/-- The clause on a frame in pieces: after its command byte the port is still in RX. -/
theorem witness_CommandFrameIsAccepted_pieces :
    [(0x41 : Byte)] ≠ [] ∧ (∃ t, exec (.commandFrame 1 [0x13] .high) receiving = .next t ∧ (t.port 1).txn = .rx)
      ∧ ∃ t, exec (.commandFrame 1 [] .low) (standing .clocked .low) = .next t ∧ (t.port 1).sda = .released :=
  ⟨by decide, ⟨_, rfl, by decide⟩, _, rfl, by decide⟩

theorem witness_DiscardedFramesLeaveNoTrace :
    (receiving.inReset = false ∧ (receiving.port 1).timedOut = false ∧ (receiving.port 1).txn = .rx
        ∧ (receiving.port 1).buffer = []
        ∧ (receiving.port 1).crc = some (crcOf [addressOf receiving.busAddress false]))
      ∧ 32 < (33#8).toNat ∧ (1#8).toNat ≤ 32 ∧ [(9 : Byte)].length = (1#8).toNat
      ∧ (0 : Byte) ≠ crcOf (addressOf receiving.busAddress false :: 0x13 :: 0x41 :: 1 :: [9])
      ∧ 4 ≤ (1#8).toNat + 3 ∧ 0 ≤ (1#8).toNat + 3 := by decide

theorem witness_ResponseReadSendsTheImage :
    ((running.port 1).timedOut = false ∧ (running.port 1).txn ≠ .tx ∧ (running.port 1).txn ≠ .aside)
      ∧ ((standing .clocked .low).inReset = false ∧ ((standing .clocked .low).port 1).txn = .aside ∧ [true] ≠ [])
      ∧ ∀ low : Bool, ((sending 0 0 low).port 1).timedOut = false ∧ ((sending 5 8 low).port 1).timedOut = false
      ∧ ((sending 0 0 low).port 1).ack = .absent ∧ ((sending 5 8 low).port 1).ack = .absent
      ∧ ((sending 0 0 low).inReset = false ∧ ((sending 0 0 low).port 1).txn = .tx
        ∧ ((sending 0 0 low).port 1).image = some ⟨imageBytes 0x71 .empty, 0, 0⟩ ∧ 0 ≤ (imageBytes 0x71 .empty).length
        ∧ 0 ≤ 8)
      ∧ ((sending 5 8 low).inReset = false ∧ ((sending 5 8 low).port 1).txn = .tx
        ∧ ((sending 5 8 low).port 1).image = some ⟨imageBytes 0x71 .empty, 5, 8⟩ ∧ 5 ≤ (imageBytes 0x71 .empty).length
        ∧ 8 ≤ 8) := by decide

/-- The clause on the port's own ACK: it is not over right after the read address byte. -/
theorem witness_ResponseReadSendsTheImage_ack :
    let s := after (.addressByte 0 0x71) (after (.startCondition 0) running)
    s.inReset = false ∧ (s.port 0).timedOut = false ∧ (s.port 0).txn = .tx ∧ (s.port 0).ack ≠ .absent
      ∧ (s.port 0).image = some ⟨imageBytes 0x71 .empty, 0, 0⟩ := by decide

/-- The clauses on edges of SCL alone: an event that clocks the eighth bit, and one that would be the ninth clock. -/
theorem witness_ResponseReadSendsTheImage_edges :
    8 = (if ((sending 0 7 true).port 1).timer.running then 7 + 1 else 7)
      ∧ 8 = (if ((sending 5 8 false).port 1).timer.running then 8 + 1 else 8)
      ∧ 9 = (if ((sending 5 8 true).port 1).timer.running then 8 + 1 else 8)
      ∧ 0 = (if ((sending 0 0 false).port 1).timer.running then 0 + 1 else 0) := by decide

end Sys2Proof.Machine.Tests
end

section
/-! PROOF. Lease ids and tickets are the first numbers not in use (R4, R31), and the lease request arbiter (R6). -/

namespace Sys2Proof.Machine

/-! ### Assigned numbers -/

/-- R4, R31: counting on from a number of 1 to 255 runs round these 255 numbers. -/
theorem iterate_nextNumber {n : Nat} (h : 1 ≤ n ∧ n ≤ 255) (k : Nat) :
    nextNumber^[k] n = (n - 1 + k) % 255 + 1 := by
  induction k with
  | zero => simp only [Function.iterate_zero, id]; omega
  | succ k ih =>
    rw [Function.iterate_succ_apply', ih]
    unfold nextNumber
    split <;> omega

/-- Fewer than 255 numbers counted on from one are all different. -/
theorem iterate_nextNumber_nodup {n k : Nat} (h : 1 ≤ n ∧ n ≤ 255) (hk : k ≤ 255) :
    ((List.range k).map fun j => nextNumber^[j] n).Nodup := by
  refine List.Nodup.map_on (fun i hi j hj e => ?_) List.nodup_range
  rw [List.mem_range] at hi hj
  rw [iterate_nextNumber h, iterate_nextNumber h] at e
  omega

/-- R4, R31: the assigned number stands some steps on from the candidate, every number passed over is in use, and the search
ends at a number that is not in use or when its fuel does. -/
theorem assignNumber_eq_iterate (used : List Nat) (fuel n : Nat) :
    ∃ k ≤ fuel, assignNumber used fuel n = nextNumber^[k] n ∧ (∀ j < k, nextNumber^[j] n ∈ used)
      ∧ (k < fuel → nextNumber^[k] n ∉ used) := by
  induction fuel generalizing n with
  | zero => exact ⟨0, Nat.le_refl 0, rfl, by simp, by simp⟩
  | succ fuel ih =>
    unfold assignNumber
    by_cases hn : n ∈ used
    · obtain ⟨k, hk, value, passed, free⟩ := ih (nextNumber n)
      refine ⟨k + 1, by omega, by simpa [hn] using value, fun j hj => ?_, fun h => free (by omega)⟩
      cases j with
      | zero => exact hn
      | succ j => exact passed j (by omega)
    · exact ⟨0, by omega, by simp [hn], by simp, fun _ => hn⟩

/-- Numbers passed over are different and in use, so there are no more of them than numbers in use. -/
theorem passed_le_length {used : List Nat} {n k : Nat} (h : 1 ≤ n ∧ n ≤ 255) (hk : k ≤ 255)
    (passed : ∀ j < k, nextNumber^[j] n ∈ used) : k ≤ used.length := by
  have sub : ((List.range k).map fun j => nextNumber^[j] n) ⊆ used := by
    intro m hm
    obtain ⟨j, hj, rfl⟩ := List.mem_map.mp hm
    exact passed j (List.mem_range.mp hj)
  simpa using ((iterate_nextNumber_nodup h hk).subperm sub).length_le

/-- R4, R31: while fewer numbers are in use than the search looks at, it finds the first one not in use. -/
theorem assignNumber_first {used : List Nat} {fuel n : Nat} (h : 1 ≤ n ∧ n ≤ 255) (hf : fuel ≤ 255)
    (hu : used.length < fuel) :
    ∃ k ≤ used.length, assignNumber used fuel n = nextNumber^[k] n ∧ assignNumber used fuel n ∉ used
      ∧ ∀ j < k, nextNumber^[j] n ∈ used := by
  obtain ⟨k, hk, value, passed, free⟩ := assignNumber_eq_iterate used fuel n
  have bound : k ≤ used.length := passed_le_length h (by omega) passed
  exact ⟨k, bound, value, value ▸ free (by omega), passed⟩

/-- R4: the id a grant takes, while the table has a free entry. -/
theorem nextLeaseId_first {s : State} (h : 1 ≤ s.leaseCounter ∧ s.leaseCounter ≤ 255)
    (room : s.leases.length < leaseEntries) :
    ∃ k ≤ s.leases.length, s.nextLeaseId = nextNumber^[k] s.leaseCounter ∧ (∀ l ∈ s.leases, l.id ≠ s.nextLeaseId)
      ∧ ∀ j < k, ∃ l ∈ s.leases, l.id = nextNumber^[j] s.leaseCounter := by
  obtain ⟨k, bound, value, fresh, passed⟩ := assignNumber_first (used := s.leases.map fun l => l.id)
    (fuel := leaseEntries) h (by decide) (by simpa using room)
  exact ⟨k, by simpa using bound, value, fun l hm e => fresh (List.mem_map.mpr ⟨l, hm, e⟩),
    fun j hj => List.mem_map.mp (passed j hj)⟩

/-- R31: the ticket a placement takes, while the queue has a free place. -/
theorem nextTicket_first {s : State} (h : 1 ≤ s.ticketCounter ∧ s.ticketCounter ≤ 255)
    (room : s.queue.length < waitPlaces) :
    ∃ k ≤ s.queue.length, s.nextTicket = nextNumber^[k] s.ticketCounter ∧ (∀ c ∈ s.queue, c.ticket ≠ s.nextTicket)
      ∧ ∀ j < k, ∃ c ∈ s.queue, c.ticket = nextNumber^[j] s.ticketCounter := by
  obtain ⟨k, bound, value, fresh, passed⟩ := assignNumber_first (used := s.queue.map fun c => c.ticket)
    (fuel := waitPlaces) h (by decide) (by simpa using room)
  exact ⟨k, by simpa using bound, value, fun c hm e => fresh (List.mem_map.mpr ⟨c, hm, e⟩),
    fun j hj => List.mem_map.mp (passed j hj)⟩

/-- Settles O19: the search of R4 and R31 ends before its fuel does, since the numbers it passes over are different. -/
theorem numbersAreTheFirstNotInUse : Obligations.NumbersAreTheFirstNotInUse :=
  fun _ hl hl' ht ht' => ⟨nextLeaseId_first ⟨hl, hl'⟩, nextTicket_first ⟨ht, ht'⟩⟩

/-! ### The arbiter -/

/-- Every host is one of the list of hosts. -/
theorem mem_allHosts (h : Host) : h ∈ allHosts := by revert h; decide

/-- R6: the arbiter asks the ports in turn, each by its distance from the port after the last-served one. -/
theorem arbiterPick_eq (s : State) :
    s.arbiterPick = (allHosts.find? fun d => s.presents (s.lastServed + 1 + d)).map (s.lastServed + 1 + ·) := by
  have turn : [s.lastServed + 1, s.lastServed + 2, s.lastServed + 3, s.lastServed]
      = allHosts.map (s.lastServed + 1 + ·) := by
    generalize s.lastServed = last
    revert last
    decide
  rw [State.arbiterPick, turn, List.find?_map]
  rfl

/-- In the ascending list of hosts a search finds the least host that satisfies the test. -/
theorem find?_allHosts_le {f : Host → Bool} {d e : Host} (h : allHosts.find? f = some d) (he : f e = true) : d ≤ e := by
  obtain ⟨-, before, after, split, skipped⟩ := List.find?_eq_some_iff_append.mp h
  have sorted : (before ++ d :: after).Pairwise (· ≤ ·) := split ▸ by decide
  have place : e ∈ before ++ d :: after := split ▸ mem_allHosts e
  rcases List.mem_append.mp place with hb | hb
  · exact absurd he (by simpa using skipped e hb)
  · rcases List.mem_cons.mp hb with rfl | hb
    · exact le_refl _
    · exact (List.pairwise_cons.mp (List.pairwise_append.mp sorted).2.1).1 e hb

/-- Settles O20: the port picked is the one at the least distance among those that present a request. -/
theorem arbiterServesPortsInTurn : Obligations.ArbiterServesPortsInTurn := by
  intro s
  have back : ∀ q : Host, s.lastServed + 1 + (q - (s.lastServed + 1)) = q := fun q => add_sub_cancel _ _
  rw [arbiterPick_eq]
  refine ⟨fun p hp => ?_, ?_⟩
  · obtain ⟨d, hd, rfl⟩ := Option.map_eq_some_iff.mp hp
    refine ⟨by simpa using List.find?_some hd, fun q hq => ?_⟩
    rw [add_sub_cancel_left]
    exact find?_allHosts_le hd (by rwa [back])
  · rw [Option.map_eq_none_iff, List.find?_eq_none]
    exact ⟨fun h q => by simpa [back] using h (q - (s.lastServed + 1)) (mem_allHosts _), fun h d _ => by simp [h]⟩

end Sys2Proof.Machine
end

section
/-! PROOF. What a command can do to the lease table and the wait queue: a few kinds of move, each of which keeps the laws of
both (R1 to R4, R28 to R31, R43), and every command as a sequence of such moves. -/

namespace Sys2Proof.Machine

/-! ### Line sets -/

theorem coversLine_iff {es : List LineEntry} {i : Line} : coversLine es i = true ↔ ∃ e ∈ es, e.line = i := by
  simp [coversLine]

/-- R1, R30: two line sets are disjoint exactly when no line of the one belongs to the other. -/
theorem sharesLine_eq_false {a b : List LineEntry} :
    sharesLine a b = false ↔ ∀ e ∈ a, coversLine b e.line = false := by
  simp [sharesLine]

theorem sharesLine_iff {a b : List LineEntry} : sharesLine a b = true ↔ ∃ e ∈ a, coversLine b e.line = true := by
  simp [sharesLine]

/-- Sharing a line is symmetric. -/
theorem sharesLine_comm (a b : List LineEntry) : sharesLine a b = sharesLine b a := by
  rw [Bool.eq_iff_iff]
  simp only [sharesLine_iff, coversLine_iff]
  constructor
  all_goals
    rintro ⟨e, he, f, hf, h⟩
    exact ⟨f, hf, e, he, h.symm⟩

/-- R13, R34: free lines belong to no live lease. -/
theorem allFree_iff {s : State} {es : List LineEntry} :
    s.allFree es = true ↔ ∀ l ∈ s.leases, sharesLine es l.entries = false := by
  simp only [State.allFree, State.lineHeld, sharesLine_eq_false, List.all_eq_true, Bool.not_eq_true', List.any_eq_false,
    Bool.not_eq_true]
  exact ⟨fun h l hl e he => h e he l hl, fun h e he l hl => h l hl e he⟩

theorem unclaimed_iff {claims : List Claim} {es : List LineEntry} :
    unclaimed claims es = true ↔ ∀ c ∈ claims, sharesLine es c.entries = false := by
  simp [unclaimed]

/-- R11: line entries in strictly ascending order, as the check of their form reads it. -/
theorem ascending_iff (es : List LineEntry) : ascending es = true ↔ es.Pairwise fun a b => a.line < b.line := by
  rw [← List.isChain_iff_pairwise]
  induction es with
  | nil => simp [ascending]
  | cons a rest ih =>
    cases rest with
    | nil => simp [ascending]
    | cons b rest => simp [ascending, ih]

/-- R11, R29: the line entries of a claim whose form is right make a line set. -/
theorem claimEntries_ok {bytes : List Byte} {es : List LineEntry} (h : claimEntries bytes = some es) : EntriesOk es := by
  unfold claimEntries at h
  split at h
  · split at h
    · rename_i form
      cases h
      simp only [Bool.and_eq_true, Bool.not_eq_true', List.isEmpty_eq_false_iff] at form
      exact ⟨form.1, (ascending_iff _).mp form.2⟩
    · cases h
  · cases h

/-- R2, R29: a line set names each line once. -/
theorem EntriesOk.nodup {es : List LineEntry} (h : EntriesOk es) : (es.map fun e => e.line).Nodup := by
  rw [List.Nodup, List.pairwise_map]
  exact h.2.imp fun k => ne_of_lt k

/-! ### Moves -/

/-- The tables of which the laws of leases and claims speak. -/
structure Tables where
  leases        : List Lease
  leaseCounter  : Nat
  queue         : List Claim
  ticketCounter : Nat
  allowed       : Vector HostSet 24

/-- The tables of a state. -/
def State.tables (s : State) : Tables := ⟨s.leases, s.leaseCounter, s.queue, s.ticketCounter, s.allowed⟩

/-- R14, steps 1 to 4, in the lease table alone: what a grant adds to it. -/
def State.addLease (h : Host) (es : List LineEntry) (interval : Nat) (s : State) : State :=
  { s with
    leases := insertLease ⟨s.nextLeaseId, h, es, interval, renewStart interval, none⟩ s.leases
    leaseCounter := nextNumber s.nextLeaseId }

/-- R51, steps 1 to 3: lease `l` passes to host `h` and is ACTIVE with its renew timer in full. -/
def Lease.passTo (h : Host) (l : Lease) : Lease := { l.activated.renewed with holder := h }

/-- A change of a lease that keeps its id, its holder and its line set. -/
def KeepsLines (f : Lease → Lease) : Prop :=
  ∀ l, (f l).id = l.id ∧ (f l).holder = l.holder ∧ (f l).entries = l.entries

/-- One move of the lease table and the wait queue, with the conditions under which the part makes it. -/
inductive TableMove (s : State) : State → Prop where
  /-- The tables stand. -/
  | same {t : State} (h : t.tables = s.tables) : TableMove s t
  /-- R27, R45: device reset. -/
  | reset : TableMove s s.enterReset
  /-- R14: a claim is granted at once. -/
  | grant (h : Host) {es : List LineEntry} {interval : Nat} (ok : EntriesOk es) (range : interval ≤ 255)
      (free : s.allFree es = true) (unclaimed : unclaimed s.queue es = true) (room : s.hasEntry = true) :
      TableMove s (s.addLease h es interval)
  /-- R34, R35: the scan grants a waiting claim, which leaves the queue. -/
  | scanGrant {older rest : List Claim} {c : Claim} (hq : s.queue = older ++ c :: rest)
      (h : s.scanGrants older c = true) :
      TableMove s { s.addLease c.host c.entries c.interval with queue := older ++ rest }
  /-- R15: a claim is placed at the tail of the queue. -/
  | place (h : Host) {es : List LineEntry} {interval limit : Nat} (ok : EntriesOk es) (range : interval ≤ 255)
      (bound : limit ≤ 255) (allowed : s.allowsAll h es = true) (own : s.ownsLine h es = false)
      (room : s.queueFullFor h = false) : TableMove s (s.place h es interval limit)
  /-- R37, R41: claims leave the queue. -/
  | leave (p : Claim → Bool) : TableMove s { s with queue := s.queue.filter p }
  /-- R38: the wait timers count. -/
  | waitTick : TableMove s { s with queue := s.queue.map Claim.tick }
  /-- R3, R20, R21, R47, R54: fields of leases change that the line sets have no part in. -/
  | adjust {f : Lease → Lease} (keeps : KeepsLines f) (ok : LeaseTableLaw s → ∀ l ∈ s.leases, (f l).Ok) :
      TableMove s { s with leases := s.leases.map f }
  /-- R17: leases leave the table. -/
  | free (p : Lease → Bool) : TableMove s { s with leases := s.leases.filter p }
  /-- R42, R51: a lease passes to its new holder, whose claims on its lines are superseded. -/
  | accept (h : Host) {l : Lease} (hl : l ∈ s.leases) :
      TableMove s { s with
        leases := s.leases.map fun m => if m.id = l.id then m.passTo h else m
        queue := s.queue.filter fun c => !supersededBy h l.entries c }
  /-- R43, R110: allowed-host sets are replaced, and the claims they exclude are purged. -/
  | reserve (m : LineMask) (a : HostSet) :
      TableMove s { s.reserveLines m a with queue := s.queue.filter fun c => !excludedBy m a c }

/-- Moves one after another. -/
def TableMoves (s t : State) : Prop := Relation.ReflTransGen TableMove s t

theorem TableMoves.refl {s : State} : TableMoves s s := Relation.ReflTransGen.refl

theorem TableMoves.trans {s t u : State} (h : TableMoves s t) (k : TableMoves t u) : TableMoves s u :=
  Relation.ReflTransGen.trans h k

theorem TableMove.moves {s t : State} (h : TableMove s t) : TableMoves s t := Relation.ReflTransGen.single h

/-! ### Every move keeps the laws -/

section

variable {s t : State}

theorem LeaseTableLaw.congr (h : t.tables = s.tables) (law : LeaseTableLaw s) : LeaseTableLaw t := by
  simp only [State.tables, Tables.mk.injEq] at h
  obtain ⟨leases, counter, -⟩ := h
  unfold LeaseTableLaw
  rwa [leases, counter]

theorem DisjointLaw.congr (h : t.tables = s.tables) (law : DisjointLaw s) : DisjointLaw t := by
  simp only [State.tables, Tables.mk.injEq] at h
  unfold DisjointLaw
  rwa [h.1]

theorem WaitQueueLaw.congr (h : t.tables = s.tables) (law : WaitQueueLaw s) : WaitQueueLaw t := by
  simp only [State.tables, Tables.mk.injEq] at h
  obtain ⟨-, -, queue, counter, -⟩ := h
  unfold WaitQueueLaw
  rwa [queue, counter]

theorem OwnLineLaw.congr (h : t.tables = s.tables) (law : OwnLineLaw s) : OwnLineLaw t := by
  simp only [State.tables, Tables.mk.injEq] at h
  obtain ⟨leases, -, queue, -⟩ := h
  unfold OwnLineLaw
  rwa [leases, queue]

theorem ReservationLaw.congr (h : t.tables = s.tables) (law : ReservationLaw s) : ReservationLaw t := by
  simp only [State.tables, Tables.mk.injEq] at h
  obtain ⟨-, -, queue, -, allowed⟩ := h
  unfold ReservationLaw State.allowsAll State.allowedOn
  rwa [queue, allowed]

end

/-- R27, R45: device reset leaves the tables of the reset state. -/
theorem tables_enterReset (s : State) : s.enterReset.tables = State.reset.tables := rfl

theorem leaseTableLaw_reset : LeaseTableLaw State.reset := ⟨by decide, .nil, by simp [State.reset], by decide⟩

theorem disjointLaw_reset : DisjointLaw State.reset := .nil

theorem waitQueueLaw_reset : WaitQueueLaw State.reset := ⟨by decide, by decide, .nil, by simp [State.reset], by decide⟩

theorem ownLineLaw_reset : OwnLineLaw State.reset := ⟨by simp [State.reset], .nil⟩

theorem reservationLaw_reset : ReservationLaw State.reset := by simp [ReservationLaw, State.reset]

/-- R2, R21: a lease whose renew timer starts in full has it exactly when its interval is not 0, and within its range. -/
theorem renewStart_ok (interval : Nat) :
    (renewStart interval = none ↔ interval = 0) ∧ ∀ r ∈ renewStart interval, r ≤ interval * unitMs := by
  unfold renewStart
  split <;> simp [*]

/-- R1, R2, R4: a grant keeps the lease table. -/
theorem LeaseTableLaw.addLease {s : State} (law : LeaseTableLaw s) (h : Host) {es : List LineEntry} {interval : Nat}
    (ok : EntriesOk es) (range : interval ≤ 255) (room : s.hasEntry = true) :
    LeaseTableLaw (s.addLease h es interval) := by
  obtain ⟨-, sorted, fields, counter⟩ := law
  have room : s.leases.length < leaseEntries := of_decide_eq_true room
  obtain ⟨-, -, -, fresh, -⟩ := nextLeaseId_first counter room
  have id : 1 ≤ s.nextLeaseId ∧ s.nextLeaseId ≤ 255 := assignNumber_range counter
  have perm := insertLease_perm ⟨s.nextLeaseId, h, es, interval, renewStart interval, none⟩ s.leases
  refine ⟨?_, insertLease_sorted sorted fresh, fun l hl => ?_, nextNumber_range id.2⟩
  · exact perm.length_eq ▸ room
  · rcases List.mem_cons.mp (perm.mem_iff.mp hl) with rfl | hl
    · exact ⟨id, ok, range, (renewStart_ok interval).1, (renewStart_ok interval).2, by simp⟩
    · exact fields l hl

/-- R1: a grant of free lines keeps the line sets disjoint. -/
theorem DisjointLaw.addLease {s : State} (law : DisjointLaw s) (h : Host) {es : List LineEntry} {interval : Nat}
    (free : s.allFree es = true) : DisjointLaw (s.addLease h es interval) := by
  have perm := insertLease_perm ⟨s.nextLeaseId, h, es, interval, renewStart interval, none⟩ s.leases
  refine (perm.pairwise_iff fun {a b} hab => ?_).mpr (List.pairwise_cons.mpr ⟨allFree_iff.mp free, law⟩)
  rwa [sharesLine_comm]

/-- R30: a grant keeps the own lines apart where no waiting claim of the new holder shares a line with it. -/
theorem OwnLineLaw.addLease {s : State} (law : OwnLineLaw s) (h : Host) {es : List LineEntry} {interval : Nat}
    (apart : ∀ c ∈ s.queue, c.host = h → sharesLine c.entries es = false) : OwnLineLaw (s.addLease h es interval) := by
  have perm := insertLease_perm ⟨s.nextLeaseId, h, es, interval, renewStart interval, none⟩ s.leases
  refine ⟨fun c hc l hl e => ?_, law.2⟩
  rcases List.mem_cons.mp (perm.mem_iff.mp hl) with rfl | hl
  · exact apart c hc e.symm
  · exact law.1 c hc l hl e

/-- R28 to R31: fewer claims keep the wait queue. -/
theorem WaitQueueLaw.sublist {s : State} {q : List Claim} (law : WaitQueueLaw s) (h : q.Sublist s.queue) :
    WaitQueueLaw { s with queue := q } := by
  obtain ⟨places, hosts, tickets, fields, counter⟩ := law
  exact ⟨h.length_le.trans places, fun k => (h.filter _).length_le.trans (hosts k), tickets.sublist h,
    fun c hc => fields c (h.subset hc), counter⟩

/-- R30: fewer claims keep the own lines apart. -/
theorem OwnLineLaw.sublist {s : State} {q : List Claim} (law : OwnLineLaw s) (h : q.Sublist s.queue) :
    OwnLineLaw { s with queue := q } :=
  ⟨fun c hc => law.1 c (h.subset hc), law.2.sublist h⟩

/-- R1 to R4: changed leases that keep their ids keep the table, if each is in its ranges. -/
theorem LeaseTableLaw.map {s : State} {f : Lease → Lease} (law : LeaseTableLaw s) (id : ∀ l, (f l).id = l.id)
    (ok : ∀ l ∈ s.leases, (f l).Ok) : LeaseTableLaw { s with leases := s.leases.map f } := by
  obtain ⟨entries, sorted, -, counter⟩ := law
  refine ⟨by simpa using entries, ?_, by simpa using ok, counter⟩
  simpa [List.pairwise_map, id] using sorted

/-- R1: changed leases that keep their line sets keep them disjoint. -/
theorem DisjointLaw.map {s : State} {f : Lease → Lease} (law : DisjointLaw s) (entries : ∀ l, (f l).entries = l.entries) :
    DisjointLaw { s with leases := s.leases.map f } := by
  unfold DisjointLaw at *
  simpa [List.pairwise_map, entries] using law

/-- R2, R51: a lease that passes to another host stays in its ranges. -/
theorem Lease.Ok.passTo {l : Lease} (ok : l.Ok) (h : Host) : (l.passTo h).Ok := by
  obtain ⟨id, entries, interval, -⟩ := ok
  exact ⟨id, entries, interval, (renewStart_ok l.interval).1, (renewStart_ok l.interval).2, by
    simp [Lease.passTo, Lease.renewed, Lease.activated]⟩

theorem LeaseTableLaw.sorted {s : State} (law : LeaseTableLaw s) : s.leases.Pairwise fun a b => a.id < b.id := law.2.1

theorem LeaseTableLaw.fields {s : State} (law : LeaseTableLaw s) {l : Lease} (hl : l ∈ s.leases) : l.Ok := law.2.2.1 l hl

theorem Lease.Ok.lines {l : Lease} (ok : l.Ok) : EntriesOk l.entries := ok.2.1

/-- In a table whose ids are distinct, leases with the same id are the same. -/
theorem LeaseTableLaw.eq_of_id {s : State} (law : LeaseTableLaw s) {l m : Lease} (hl : l ∈ s.leases) (hm : m ∈ s.leases)
    (h : m.id = l.id) : m = l := by
  have found := findLease_of_mem law.sorted hm
  rw [h, findLease_of_mem law.sorted hl] at found
  exact (Option.some.inj found).symm

/-- R110: the allowed-host sets after a RESERVE. -/
theorem allowedOn_reserveLines (m : LineMask) (a : HostSet) (s : State) (i : Line) :
    (s.reserveLines m a).allowedOn i = if m.getLsbD i.val then a else s.allowedOn i := by
  have fold : ∀ (ls : List Line) (t : Vector HostSet 24),
      (ls.foldl (fun t i => updateLine t i fun _ => a) t)[i] = if i ∈ ls then a else t[i] := by
    intro ls
    induction ls with
    | nil => simp
    | cons j ls ih =>
      intro t
      rw [List.foldl_cons, ih, updateLine_getElem]
      by_cases h : i = j <;> simp [h]
  rw [State.allowedOn, State.reserveLines, fold]
  simp [mem_maskLines, State.allowedOn]

/-- R12: what it takes not to be refused OWN_LINE. -/
theorem ownsLine_eq_false {s : State} {h : Host} {es : List LineEntry} :
    s.ownsLine h es = false ↔ (∀ l ∈ s.leases, l.holder = h → sharesLine es l.entries = false)
      ∧ ∀ c ∈ s.queue, c.host = h → sharesLine es c.entries = false := by
  simp [State.ownsLine]

/-- R13: what it takes not to be refused QUEUE_FULL. -/
theorem queueFullFor_eq_false {s : State} {h : Host} : s.queueFullFor h = false ↔
    s.queue.length < waitPlaces ∧ (s.queue.filter fun c => c.host == h).length < claimsPerHost := by
  simp [State.queueFullFor]

theorem LeaseTableLaw.move {s t : State} (h : TableMove s t) (law : LeaseTableLaw s) (waiting : WaitQueueLaw s) :
    LeaseTableLaw t := by
  cases h with
  | same h => exact law.congr h
  | reset => exact leaseTableLaw_reset.congr (tables_enterReset s)
  | grant h ok range _ _ room => exact law.addLease h ok range room
  | scanGrant hq h =>
    rename_i older rest c
    obtain ⟨-, -, -, fields, -⟩ := waiting
    obtain ⟨-, ok, range, -⟩ := fields c (by simp [hq])
    simp only [State.scanGrants, Bool.and_eq_true] at h
    exact law.addLease c.host ok range h.2
  | place | leave | waitTick | reserve => exact law
  | adjust keeps ok => exact law.map (fun l => (keeps l).1) (ok law)
  | free p =>
    obtain ⟨entries, sorted, fields, counter⟩ := law
    have sub : (s.leases.filter p).Sublist s.leases := List.filter_sublist
    exact ⟨sub.length_le.trans entries, sorted.sublist sub, fun l hl => fields l (sub.subset hl), counter⟩
  | accept h hl =>
    refine law.map (fun m => ?_) fun m hm => ?_
    · split <;> rfl
    · split
      · exact (law.fields hm).passTo h
      · exact law.fields hm

theorem DisjointLaw.move {s t : State} (h : TableMove s t) (law : DisjointLaw s) : DisjointLaw t := by
  cases h with
  | same h => exact law.congr h
  | reset => exact disjointLaw_reset.congr (tables_enterReset s)
  | grant h _ _ free => exact law.addLease h free
  | scanGrant hq h =>
    simp only [State.scanGrants, Bool.and_eq_true] at h
    exact law.addLease _ h.1.1
  | place | leave | waitTick | reserve => exact law
  | adjust keeps => exact law.map fun l => (keeps l).2.2
  | free p => exact List.Pairwise.sublist List.filter_sublist law
  | accept h => exact law.map fun m => by split <;> rfl

theorem WaitQueueLaw.move {s t : State} (h : TableMove s t) (law : WaitQueueLaw s) : WaitQueueLaw t := by
  cases h with
  | same h => exact law.congr h
  | reset => exact waitQueueLaw_reset.congr (tables_enterReset s)
  | grant | adjust | free => exact law
  | scanGrant hq => exact law.sublist (by simp [hq])
  | leave p => exact law.sublist List.filter_sublist
  | accept => exact law.sublist List.filter_sublist
  | reserve => exact law.sublist List.filter_sublist
  | waitTick =>
    obtain ⟨places, hosts, tickets, fields, counter⟩ := law
    refine ⟨by simpa using places, fun k => ?_, by simpa [List.pairwise_map, Claim.tick] using tickets, ?_, counter⟩
    · simpa [List.filter_map, Function.comp_def, Claim.tick] using hosts k
    · rw [List.forall_mem_map]
      intro c hc
      obtain ⟨ticket, entries, interval, remaining⟩ := fields c hc
      exact ⟨ticket, entries, interval, (Nat.sub_le _ _).trans remaining⟩
  | place h ok range bound _ _ room =>
    rename_i es interval limit
    obtain ⟨-, hosts, tickets, fields, counter⟩ := law
    obtain ⟨places, places'⟩ := queueFullFor_eq_false.mp room
    obtain ⟨-, -, -, fresh, -⟩ := nextTicket_first counter places
    have ticket : 1 ≤ s.nextTicket ∧ s.nextTicket ≤ 255 := assignNumber_range counter
    refine ⟨by simpa [State.place] using places, fun k => ?_, ?_, fun c hc => ?_, nextNumber_range ticket.2⟩
    · by_cases hk : h = k
      · subst hk
        simpa [State.place] using places'
      · simpa [State.place, hk] using hosts k
    · exact List.pairwise_append.mpr ⟨tickets, by simp, by simpa using fresh⟩
    · rcases List.mem_append.mp hc with hc | hc
      · exact fields c hc
      · cases List.mem_singleton.mp hc
        exact ⟨ticket, ok, range, Nat.mul_le_mul_right unitMs bound⟩

theorem OwnLineLaw.move {s t : State} (h : TableMove s t) (law : OwnLineLaw s) (leases : LeaseTableLaw s) :
    OwnLineLaw t := by
  cases h with
  | same h => exact law.congr h
  | reset => exact ownLineLaw_reset.congr (tables_enterReset s)
  | grant h _ _ _ unclaimed =>
    exact law.addLease h fun c hc _ => by rw [sharesLine_comm]; exact unclaimed_iff.mp unclaimed c hc
  | scanGrant hq h =>
    rename_i older rest c
    have shorter := law.sublist (q := older ++ rest) (by simp [hq])
    refine OwnLineLaw.addLease (s := { s with queue := older ++ rest }) shorter c.host fun d hd e => ?_
    obtain ⟨-, apart⟩ := law
    rw [hq, List.pairwise_middle (fun hab e => by rw [sharesLine_comm]; exact hab e.symm)] at apart
    rw [sharesLine_comm]
    exact (List.pairwise_cons.mp apart).1 d hd e.symm
  | leave p => exact law.sublist List.filter_sublist
  | waitTick =>
    refine ⟨List.forall_mem_map.mpr law.1, ?_⟩
    simpa [List.pairwise_map, Claim.tick] using law.2
  | reserve => exact law.sublist List.filter_sublist
  | adjust keeps =>
    refine ⟨fun c hc l hl e => ?_, law.2⟩
    obtain ⟨m, hm, rfl⟩ := List.mem_map.mp hl
    obtain ⟨-, holder, entries⟩ := keeps m
    rw [entries]
    exact law.1 c hc m hm (holder ▸ e)
  | free p => exact ⟨fun c hc l hl => law.1 c hc l (List.mem_of_mem_filter hl), law.2⟩
  | place h ok _ _ _ own =>
    obtain ⟨notHeld, notClaimed⟩ := ownsLine_eq_false.mp own
    refine ⟨fun c hc l hl e => ?_, List.pairwise_append.mpr ⟨law.2, by simp, fun c hc d hd e => ?_⟩⟩
    · rcases List.mem_append.mp hc with hc | hc
      · exact law.1 c hc l hl e
      · cases List.mem_singleton.mp hc
        exact notHeld l hl e
    · cases List.mem_singleton.mp hd
      rw [sharesLine_comm]
      exact notClaimed c hc e
  | accept h hl =>
    rename_i l
    refine ⟨fun c hc m hm e => ?_, law.2.sublist List.filter_sublist⟩
    obtain ⟨n, hn, rfl⟩ := List.mem_map.mp hm
    obtain ⟨hc, kept⟩ := List.mem_filter.mp hc
    split at e
    · rename_i id
      cases leases.eq_of_id hl hn id
      have own : c.host = h := e.symm
      simpa [supersededBy, own, Lease.passTo, Lease.renewed, Lease.activated] using kept
    · rename_i id
      simpa [id] using law.1 c hc n hn e

theorem ReservationLaw.move {s t : State} (h : TableMove s t) (law : ReservationLaw s) : ReservationLaw t := by
  cases h with
  | same h => exact law.congr h
  | reset => exact reservationLaw_reset.congr (tables_enterReset s)
  | grant | adjust | free => exact law
  | scanGrant hq h => exact fun d hd => law d (by rw [hq]; simp at hd ⊢; tauto)
  | leave p => exact fun c hc => law c (List.mem_of_mem_filter hc)
  | accept => exact fun c hc => law c (List.mem_of_mem_filter hc)
  | waitTick => exact List.forall_mem_map.mpr law
  | place h _ _ _ allowed =>
    intro c hc
    rcases List.mem_append.mp hc with hc | hc
    · exact law c hc
    · cases List.mem_singleton.mp hc
      exact allowed
  | reserve m a =>
    intro c hc
    obtain ⟨hc, kept⟩ := List.mem_filter.mp hc
    have old := law c hc
    simp only [State.allowsAll, List.all_eq_true] at old ⊢
    intro e he
    have sets : (s.reserveLines m a).allowedOn e.line = _ := allowedOn_reserveLines m a s e.line
    change HostSet.has ((s.reserveLines m a).allowedOn e.line) c.host = true
    rw [sets]
    split
    · rename_i bit
      by_contra refused
      simp only [excludedBy, Bool.not_and, Bool.not_not, Bool.or_eq_true, Bool.not_eq_true', List.any_eq_false] at kept
      exact kept.elim refused fun k => k e he bit
    · exact old e he

/-- What every move keeps, moves one after another keep. -/
theorem TableMoves.keep {P : State → Prop} {s t : State} (h : TableMoves s t)
    (keeps : ∀ {u v}, TableMove u v → P u → P v) (hs : P s) : P t := by
  induction h with
  | refl => exact hs
  | tail _ move ih => exact keeps move ih

end Sys2Proof.Machine
end

section
/-! PROOF. Every command and event as a sequence of moves of the lease table and the wait queue, and so the laws of both
after every step. -/

namespace Sys2Proof.Machine

/-! ### Shared operations -/

section

variable {s t : State}

theorem TableMoves.of_same (h : t.tables = s.tables) : TableMoves s t := (TableMove.same h).moves

/-- Moves start as well from a state with the same tables. -/
theorem TableMoves.from_same {u : State} (k : TableMoves t u) (h : t.tables = s.tables) : TableMoves s u :=
  (TableMoves.of_same h).trans k

/-- Moves end as well in a state with the same tables. -/
theorem TableMoves.to_same {u : State} (k : TableMoves s t) (h : u.tables = t.tables) : TableMoves s u :=
  k.trans (.of_same h)

theorem LinesOnly.tables (h : LinesOnly s t) : t.tables = s.tables := by
  unfold LinesOnly at h
  rw [h]
  rfl

theorem LinesOnly.moves (h : LinesOnly s t) : TableMoves s t := .of_same h.tables

theorem RecordsOnly.moves (h : RecordsOnly s t) : TableMoves s t := h.linesOnly.moves

end

theorem TableMoves.foldl {α : Type} {g : State → α → State} (step : ∀ s x, TableMoves s (g s x)) (xs : List α)
    (s : State) : TableMoves s (xs.foldl g s) :=
  foldl_rel (fun _ => .refl) .trans step xs s

/-- R34, R35: the pass of the scan, with the claims it has still to test in the queue behind those it left. -/
theorem scanFrom_moves (claims : List Claim) : ∀ (older : List Claim) (s : State),
    TableMoves { s with queue := older ++ claims } (State.scanFrom older claims s) := by
  induction claims with
  | nil => exact fun older s => .of_same (by simp [State.tables, State.scanFrom])
  | cons c rest ih =>
    intro older s
    unfold State.scanFrom
    split
    · rename_i h
      refine (TableMove.scanGrant (s := { s with queue := older ++ c :: rest }) rfl h).moves.trans
        ((ih older (s.scanGrant c)).from_same ?_)
      have frame := scanGrant_controllerOnly c s
      unfold ControllerOnly at frame
      rw [frame]
      rfl
    · simpa using ih (older ++ [c]) s

theorem scan_moves (s : State) : TableMoves s s.scan := scanFrom_moves s.queue [] s

theorem scanIf_moves (removed : Bool) (s : State) : TableMoves s (s.scanIf removed) := by
  cases removed
  · exact .refl
  · exact scan_moves s

/-- R37, R44: a removal of claims reaches the wait queue alone of the tables. -/
theorem tables_removeClaims (p : Claim → Bool) (reason : Option Reason) (s : State) :
    (s.removeClaims p reason).tables = { s.tables with queue := s.queue.filter fun c => !p c } := by
  cases reason with
  | none => rfl
  | some r => exact (RecordsOnly.foldl (fun t (c : Claim) => raise_recordsOnly c.host _ t) _ _).linesOnly.tables

theorem removeClaims_moves (p : Claim → Bool) (reason : Option Reason) (s : State) :
    TableMoves s (s.removeClaims p reason) :=
  (TableMove.leave fun c => !p c).moves.to_same (tables_removeClaims p reason s)

/-- A change of the lease with one id that keeps its line set is one of every lease. -/
theorem KeepsLines.ite {f : Lease → Lease} (h : KeepsLines f) (id : Nat) :
    KeepsLines fun l => if l.id = id then f l else l := by
  intro l
  dsimp only
  split
  · exact h l
  · exact ⟨rfl, rfl, rfl⟩

theorem updateLease_moves {id : Nat} {f : Lease → Lease} {s : State} (keeps : KeepsLines f)
    (ok : LeaseTableLaw s → ∀ l ∈ s.leases, l.id = id → (f l).Ok) : TableMoves s (s.updateLease id f) :=
  (TableMove.adjust (keeps.ite id) fun law l hl => by
    split
    · exact ok law l hl ‹_›
    · exact law.fields hl).moves

/-- R3: a lease that becomes ACTIVE stays in its ranges. -/
theorem Lease.Ok.activated {l : Lease} (ok : l.Ok) : l.activated.Ok := by
  obtain ⟨id, entries, interval, timer, range, -⟩ := ok
  exact ⟨id, entries, interval, timer, range, by simp [Lease.activated]⟩

/-- R21: so does a lease whose renew timer is restarted. -/
theorem Lease.Ok.renewed {l : Lease} (ok : l.Ok) : l.renewed.Ok := by
  obtain ⟨id, entries, interval, -, -, offer⟩ := ok
  exact ⟨id, entries, interval, (renewStart_ok l.interval).1, (renewStart_ok l.interval).2, offer⟩

/-- R20, R49: and one whose timers count. -/
theorem Lease.Ok.tick {l : Lease} (ok : l.Ok) : l.tick.Ok := by
  obtain ⟨id, entries, interval, timer, range, offer⟩ := ok
  refine ⟨id, entries, interval, by simpa [Lease.tick] using timer, fun r hr => ?_, fun o ho => ?_⟩
  · obtain ⟨r', hr', rfl⟩ := Option.map_eq_some_iff.mp hr
    exact (Nat.sub_le _ _).trans (range r' hr')
  · obtain ⟨o', ho', rfl⟩ := Option.map_eq_some_iff.mp ho
    obtain ⟨target, remaining⟩ := offer o' ho'
    exact ⟨target, (Nat.sub_le _ _).trans remaining⟩

theorem activate_moves (id : Nat) (s : State) : TableMoves s (s.updateLease id Lease.activated) :=
  updateLease_moves (fun _ => ⟨rfl, rfl, rfl⟩) fun law _ hl _ => (law.fields hl).activated

theorem endLease_moves (l : Lease) (cause : EndCause) (s : State) : TableMoves s (s.endLease l cause) :=
  ((((withdrawOffer_recordsOnly l cause s).trans (noticeLoss_recordsOnly l cause _)).linesOnly.trans
    (parkLines_linesOnly l.entries _)).moves).trans (TableMove.free fun m => m.id != l.id).moves

theorem endLeaseAndScan_moves (l : Lease) (cause : EndCause) (s : State) : TableMoves s (s.endLeaseAndScan l cause) :=
  (endLease_moves l cause s).trans (scan_moves _)

theorem endOfferTo_moves (n : Host) (l : Lease) (s : State) : TableMoves s (s.endOfferTo n l) := by
  unfold State.endOfferTo
  split
  · split
    · exact (activate_moves l.id s).trans (raise_recordsOnly _ _ _).moves
    · exact .refl
  · exact .refl

theorem teardown_moves (n : Host) (supervisor : Option Host) (s : State) : TableMoves s (s.teardown n supervisor) := by
  have claims := removeClaims_moves (fun c => c.host == n) none s
  have offers := fun (xs : List Lease) (t : State) => TableMoves.foldl (fun t l => endOfferTo_moves n l t) xs t
  have ends := fun (xs : List Lease) (t : State) => TableMoves.foldl (fun t l => endLease_moves l .teardown t) xs t
  refine .trans ?_ (scan_moves _)
  exact .to_same ((claims.trans (offers _ _)).trans (ends _ _)) rfl

theorem asOneEvent_moves {f : State → State} (hf : ∀ s, TableMoves s (f s)) (s : State) :
    TableMoves s (State.asOneEvent f s) :=
  have moves := hf { s with arrivals := s.arrivals ++ [[]], reports := s.reports ++ [[]] }
  (moves.from_same (s := s) rfl).to_same (u := State.asOneEvent f s) rfl

/-! ### Owners -/

/-- The body of a command makes moves of the tables. -/
def BodyMoves (body : List Byte → State → State × Reply) : Prop := ∀ ps s, TableMoves s (body ps s).1

theorem ownerTakes_moves {p : Host} {cmd : Cmd} {applies : List Byte → Bool}
    {body : List Byte → State → State × Reply} (h : BodyMoves body) (s : State) :
    TableMoves s (s.ownerTakes p cmd applies body) := by
  unfold State.ownerTakes
  split
  · exact (h _ s).to_same rfl
  · exact .refl

theorem leaseControllerTakes_moves {p : Host} {cmd : Cmd} {body : List Byte → State → State × Reply}
    (h : BodyMoves body) (s : State) : TableMoves s (s.leaseControllerTakes p cmd body) := by
  unfold State.leaseControllerTakes
  split
  · exact ownerTakes_moves (fun ps t => (h ps { t with lastServed := p }).from_same rfl) s
  · exact .refl

theorem takes_moves {f : State → State} (hf : ∀ s, TableMoves s (f s)) {s t : State} (h : s.takes f = .next t) :
    TableMoves s t := by
  unfold State.takes at h
  split at h <;> cases h
  · exact .refl
  · exact hf s

theorem portEvent_moves {p : Host} {f : PortState → PortState} {s t : State} (h : s.portEvent p f = .next t) :
    TableMoves s t := takes_moves (f := fun u => u.updatePort p fun q => f q.takeTimeout) (fun _ => .of_same rfl) h

/-- A body that reaches neither leases nor claims. -/
theorem BodyMoves.of_same {body : List Byte → State → State × Reply}
    (h : ∀ ps s, (body ps s).1.tables = s.tables) : BodyMoves body := fun ps s => .of_same (h ps s)

/-! ### The commands on leases and claims -/

/-- A parameter byte is a number up to 255. -/
theorem param_le (ps : List Byte) (k : Nat) : (param ps k).toNat ≤ 255 := Nat.le_of_lt_succ (param ps k).isLt

/-- R12 to R15: the conditions of each admission of a claim. -/
theorem admission_cases (s : State) (caller : Host) (es : List LineEntry) (limit : Nat) :
    (s.admission caller es limit = .granted ∧ s.allFree es = true ∧ unclaimed s.queue es = true ∧ s.hasEntry = true)
      ∨ (s.admission caller es limit = .queued ∧ s.allowsAll caller es = true ∧ s.ownsLine caller es = false
        ∧ s.queueFullFor caller = false)
      ∨ ∃ st, s.admission caller es limit = .refused st ∧ st ≠ .ok ∧ st ≠ .queued := by
  unfold State.admission
  repeat' split
  all_goals simp_all

theorem claimBody_moves (caller : Host) : BodyMoves (State.claimBody caller) := by
  intro ps s
  unfold State.claimBody
  split
  · exact .refl
  · rename_i es form
    rcases admission_cases s caller es (param ps 1).toNat with
      ⟨e, free, unclaimed, room⟩ | ⟨e, allowed, own, room⟩ | ⟨st, e, -⟩
    · rw [e]
      refine (TableMove.grant caller (claimEntries_ok form) (param_le ps 0) free unclaimed room).moves.to_same ?_
      have frame := grant_controllerOnly caller es (param ps 0).toNat s
      unfold ControllerOnly at frame
      dsimp only
      rw [frame, grant_queue]
      rfl
    · rw [e]
      exact (TableMove.place caller (claimEntries_ok form) (param_le ps 0) (param_le ps 1) allowed own room).moves
    · rw [e]
      exact .refl

theorem cancelBody_moves (caller : Host) : BodyMoves (State.cancelBody caller) := by
  intro ps s
  unfold State.cancelBody
  split
  · exact .refl
  · split
    · exact (removeClaims_moves _ none s).trans (scan_moves _)
    · exact .refl

theorem releaseBody_moves (caller : Host) : BodyMoves (State.releaseBody caller) := by
  intro ps s
  unfold State.releaseBody
  split
  · exact .refl
  · exact endLeaseAndScan_moves _ _ s

theorem renewBody_moves (caller : Host) : BodyMoves (State.renewBody caller) := by
  intro ps s
  unfold State.renewBody
  split
  · exact .refl
  · exact updateLease_moves (fun _ => ⟨rfl, rfl, rfl⟩) fun law l hl _ => (law.fields hl).renewed

theorem renewAllBody_moves (caller : Host) : BodyMoves (State.renewAllBody caller) := by
  intro ps s
  refine (TableMove.adjust (fun l => ?_) fun law l hl => ?_).moves
  · split <;> exact ⟨rfl, rfl, rfl⟩
  · split
    · exact (law.fields hl).renewed
    · exact law.fields hl

theorem queryLeaseBody_moves : BodyMoves State.queryLeaseBody := by
  refine .of_same fun ps s => ?_
  unfold State.queryLeaseBody
  split
  · rfl
  · split <;> rfl

/-- R47: what an OFFER that is not refused has checked of its lease and target. -/
theorem offerCheck_ok {s : State} {caller : Host} {ps : List Byte} {l : Lease} {target : Host}
    (h : s.offerCheck caller ps = .ok (l, target)) : l ∈ s.leases ∧ l.holder = caller ∧ target ≠ caller := by
  unfold State.offerCheck at h
  rcases heldLease_cases s caller (param ps 0).toNat with ⟨-, e⟩ | ⟨m, found, ⟨-, e⟩ | ⟨holder, e⟩⟩
  · simp [e] at h
  · simp [e] at h
  · rw [e] at h
    dsimp only at h
    repeat' split at h
    all_goals cases h
    exact ⟨(findLease_some found).1, holder, ‹_›⟩

theorem offerBody_moves (caller : Host) : BodyMoves (State.offerBody caller) := by
  intro ps s
  unfold State.offerBody
  split
  · exact .refl
  · rename_i r h
    obtain ⟨l, target⟩ := r
    obtain ⟨hl, rfl, ne⟩ := offerCheck_ok h
    refine .trans (updateLease_moves (f := fun m => { m with offer := some ⟨target, offerMs⟩ })
      (fun _ => ⟨rfl, rfl, rfl⟩) fun law m hm id => ?_) (raise_recordsOnly _ _ _).moves
    cases law.eq_of_id hl hm id
    obtain ⟨id, entries, interval, timer, range, -⟩ := law.fields hl
    exact ⟨id, entries, interval, timer, range, by simpa using ne⟩

theorem acceptBody_moves (caller : Host) : BodyMoves (State.acceptBody caller) := by
  intro ps s
  unfold State.acceptBody
  split
  · exact .refl
  · rename_i l h
    split
    · exact .refl
    · refine .trans ?_ (scanIf_moves _ _)
      refine (TableMove.accept caller (offeredLease_some h).1).moves.to_same ?_
      have frame : (s.transfer l caller).tables = (s.updateLease l.id (Lease.passTo caller)).tables :=
        ((rebindLines_linesOnly l.entries caller _).trans (raise_recordsOnly _ _ _).linesOnly).tables
      have queue : (s.transfer l caller).queue = s.queue := congrArg Tables.queue frame
      rw [tables_removeClaims, frame, queue]
      rfl

theorem declineBody_moves (caller : Host) : BodyMoves (State.declineBody caller) := by
  intro ps s
  unfold State.declineBody
  split
  · exact .refl
  · exact (activate_moves _ s).trans (raise_recordsOnly _ _ _).moves

theorem revokeBody_moves (caller : Host) : BodyMoves (State.revokeBody caller) := by
  intro ps s
  unfold State.revokeBody
  split
  · exact .refl
  · split
    · exact .refl
    · exact endLeaseAndScan_moves _ _ s

theorem reserveBody_moves (caller : Host) : BodyMoves (State.reserveBody caller) := by
  intro ps s
  unfold State.reserveBody
  split
  · exact .refl
  · split
    · exact .refl
    · split
      · exact .refl
      · refine .trans ?_ (scanIf_moves _ _)
        exact (TableMove.reserve _ _).moves.to_same (tables_removeClaims _ _ _)

theorem detachBody_moves (caller : Host) : BodyMoves (State.detachBody caller) := fun _ s => teardown_moves caller none s

theorem clearHostBody_moves (caller : Host) : BodyMoves (State.clearHostBody caller) := by
  intro ps s
  unfold State.clearHostBody
  split
  · exact .refl
  · split
    · exact .refl
    · exact teardown_moves _ _ s

/-! ### The commands on lines, inputs and event queues -/

/-- A body that reaches line records, arrivals and event queues at most. -/
theorem BodyMoves.of_linesOnly {body : List Byte → State → State × Reply} (h : ∀ ps s, LinesOnly s (body ps s).1) :
    BodyMoves body := .of_same fun ps s => (h ps s).tables

theorem setLevelBody_linesOnly (caller : Host) (ps : List Byte) (s : State) :
    LinesOnly s (State.setLevelBody caller ps s).1 := by
  unfold State.setLevelBody
  split
  · exact .refl s
  · exact .foldl (fun t i => driveLine_linesOnly i _ t) _ s

theorem configureBody_linesOnly (caller : Host) (ps : List Byte) (s : State) :
    LinesOnly s (State.configureBody caller ps s).1 := by
  unfold State.configureBody
  split
  · exact .refl s
  · exact (writeLine_linesOnly _ _ s).trans (present_linesOnly _ _)

theorem configureMirrorLine_linesOnly (caller : Host) (x : LineSettings) (source : Line) (invert : Bool) (s : State) :
    LinesOnly s (s.configureMirrorLine caller x source invert) := by
  unfold State.configureMirrorLine
  refine .trans ?_ (present_linesOnly _ _)
  split
  · exact (raise_recordsOnly _ _ s).linesOnly.trans (writeLine_linesOnly _ _ _)
  · exact writeLine_linesOnly _ _ s

theorem configureMirrorBody_linesOnly (caller : Host) (ps : List Byte) (s : State) :
    LinesOnly s (State.configureMirrorBody caller ps s).1 := by
  unfold State.configureMirrorBody
  split
  · exact .refl s
  · split
    · exact .refl s
    · exact configureMirrorLine_linesOnly caller _ _ _ s

theorem pulseBody_linesOnly (caller : Host) (ps : List Byte) (s : State) :
    LinesOnly s (State.pulseBody caller ps s).1 := by
  unfold State.pulseBody
  split
  · exact .refl s
  · exact driveLine_linesOnly _ _ s

theorem queryLineBody_linesOnly (ps : List Byte) (s : State) : LinesOnly s (State.queryLineBody ps s).1 := by
  unfold State.queryLineBody
  split <;> rfl

theorem attentionBody_linesOnly (caller : Host) (ps : List Byte) (s : State) :
    LinesOnly s (State.attentionBody caller ps s).1 := by
  unfold State.attentionBody
  split <;> rfl

/-- R123, R124: SUBSCRIBE and UNSUBSCRIBE reach the subscription table alone. -/
theorem subscribeBody_frame (caller : Host) (ps : List Byte) (s : State) :
    (State.subscribeBody caller ps s).1 = { s with subs := (State.subscribeBody caller ps s).1.subs } := by
  unfold State.subscribeBody
  split
  · rfl
  · split <;> rfl

theorem unsubscribeBody_frame (caller : Host) (ps : List Byte) (s : State) :
    (State.unsubscribeBody caller ps s).1 = { s with subs := (State.unsubscribeBody caller ps s).1.subs } := by
  unfold State.unsubscribeBody
  split <;> rfl

theorem takeReport_linesOnly (i : Line) (v : Level) (s : State) : LinesOnly s (s.takeReport i v) :=
  (LinesOnly.foldl (fun t m => followMirror_linesOnly i v m t) allLines s).trans (driveTest_linesOnly i v _)

theorem raiseEdges_recordsOnly (i : Line) (v : Level) (f : Filter) (s : State) : RecordsOnly s (s.raiseEdges i v f) := by
  refine .foldl (fun t h => ?_) allHosts s
  unfold State.edgeFor
  split
  · split
    · exact raise_recordsOnly _ _ t
    · exact .refl t
  · exact .refl t

theorem takeArrival_moves (i : Line) (v : Level) (s : State) : TableMoves s (s.takeArrival i v) :=
  (raiseEdges_recordsOnly i v .raw _).moves.from_same rfl

theorem RecordsOnly.tables_reports {s t : State} (h : RecordsOnly s t) (rs : List (List LevelChange)) :
    State.tables { t with reports := rs } = s.tables := h.linesOnly.tables

theorem tables_changeFiltered (i : Line) (v : Level) (s : State) : (s.changeFiltered i v).tables = s.tables := by
  unfold State.changeFiltered
  exact (raiseEdges_recordsOnly i v .filtered _).tables_reports _

theorem sampleLine_moves (s : State) (i : Line) : TableMoves s (s.sampleLine i) := by
  refine .of_same ?_
  unfold State.sampleLine
  dsimp only
  split
  · exact tables_changeFiltered i _ _
  · rfl

theorem completePulse_linesOnly (i : Line) (revert : Level) (s : State) : LinesOnly s (s.completePulse i revert) :=
  (driveLine_linesOnly i _ s).trans (raiseHolder_recordsOnly _ _ _).linesOnly

/-! ### Ticks and reset -/

theorem tables_tickWaits (o : Owner) (s : State) : (s.tickWaits o).tables = s.tables := rfl

theorem countTick_moves (s : State) : TableMoves s s.countTick :=
  (TableMove.adjust (f := Lease.tick) (fun _ => ⟨rfl, rfl, rfl⟩) fun law _ hl => (law.fields hl).tick).moves.trans
    (TableMove.waitTick.moves.to_same rfl)

theorem tick_moves (order : List Line) (s : State) : TableMoves s (s.tick order) := by
  unfold State.tick
  split
  · exact .refl
  · exact (countTick_moves s).trans
      ((LinesOnly.foldl (fun t i => driveTest_linesOnly i _ t) _ (s.countTick.tickWaits .lineMatrix)).moves.from_same rfl)

theorem pulseReset_moves (ns : Nat) (s : State) : TableMoves s (s.pulseReset ns) := by
  unfold State.pulseReset State.shortPulse
  dsimp only
  repeat' split
  · exact TableMove.reset.moves
  · exact .refl
  · exact (TableMove.reset (s := { s with freeCount := s.freeCount + 1 })).moves.from_same rfl
  · exact .of_same rfl

theorem tables_startUp (s : State) (ls : List Line) : State.tables { s with startUp := ls } = s.tables := rfl

theorem leaveReset_moves (x : Straps) (s : State) : TableMoves s (s.leaveReset x) := by
  have evaluate : ∀ (t : State) (i : Line), TableMoves t (t.evaluateLine i) := fun t i =>
    asOneEvent_moves (fun u => (writeLine_linesOnly i (u.line i) u).moves) t
  unfold State.leaveReset
  exact ((TableMoves.foldl evaluate allLines _).to_same (tables_startUp _ _)).from_same rfl

/-! ### Every command -/

/-- Every command and event makes moves of the lease table and the wait queue, one after another. -/
theorem exec_moves {i : Instr} {s t : State} (h : exec i s = .next t) : TableMoves s t := by
  cases i with
  | deviceReset cause =>
    cases h
    cases cause with
    | powerOn => exact TableMove.reset.moves
    | rstLow ns => exact pulseReset_moves ns s
  | deviceResetEnd x =>
    cases h
    split
    · exact leaveReset_moves x s
    · exact .refl
  | millisecondTick order => exact takes_moves (tick_moves order) h
  | settleExpiry i =>
    simp only [exec, execSettleExpiry] at h
    refine takes_moves (fun u => ?_) h
    split
    · exact tick_moves [i] u
    · exact .refl
  | renewExpiry id =>
    simp only [exec, execRenewExpiry] at h
    refine takes_moves (fun u => ?_) h
    split
    · exact asOneEvent_moves (endLeaseAndScan_moves _ _) u
    · exact .refl
  | waitLapse ticket =>
    simp only [exec, execWaitLapse] at h
    refine takes_moves (fun u => ?_) h
    split
    · exact (removeClaims_moves _ _ u).trans (scan_moves _)
    · exact .refl
  | offerLapse id =>
    simp only [exec, execOfferLapse] at h
    refine takes_moves (fun u => ?_) h
    split
    · exact (activate_moves id u).trans ((raise_recordsOnly _ _ _).trans (raise_recordsOnly _ _ _)).moves
    · exact .refl
  | pulseCompletion i =>
    simp only [exec, execPulseCompletion] at h
    refine takes_moves (fun u => ?_) h
    split
    · exact asOneEvent_moves (fun v => (completePulse_linesOnly i _ v).moves) u
    all_goals exact .refl
  | busTimeout p | busError p c | startCondition p | stopCondition p | addressByte p b | commandFrame p bs scl
  | responseRead p as scl => exact portEvent_moves h
  | claim p => exact takes_moves (leaseControllerTakes_moves (claimBody_moves p)) h
  | cancelClaim p => exact takes_moves (leaseControllerTakes_moves (cancelBody_moves p)) h
  | release p => exact takes_moves (asOneEvent_moves (leaseControllerTakes_moves (releaseBody_moves p))) h
  | renew p => exact takes_moves (leaseControllerTakes_moves (renewBody_moves p)) h
  | renewAll p => exact takes_moves (leaseControllerTakes_moves (renewAllBody_moves p)) h
  | queryLease p => exact takes_moves (leaseControllerTakes_moves queryLeaseBody_moves) h
  | offer p => exact takes_moves (leaseControllerTakes_moves (offerBody_moves p)) h
  | accept p => exact takes_moves (leaseControllerTakes_moves (acceptBody_moves p)) h
  | decline p => exact takes_moves (leaseControllerTakes_moves (declineBody_moves p)) h
  | revoke p => exact takes_moves (asOneEvent_moves (leaseControllerTakes_moves (revokeBody_moves p))) h
  | reserve p => exact takes_moves (leaseControllerTakes_moves (reserveBody_moves p)) h
  | detach p => exact takes_moves (asOneEvent_moves (leaseControllerTakes_moves (detachBody_moves p))) h
  | clearHost p => exact takes_moves (asOneEvent_moves (leaseControllerTakes_moves (clearHostBody_moves p))) h
  | setLevel p =>
    exact takes_moves (asOneEvent_moves (ownerTakes_moves (.of_linesOnly (setLevelBody_linesOnly p)))) h
  | configure p =>
    exact takes_moves (asOneEvent_moves (ownerTakes_moves (.of_linesOnly (configureBody_linesOnly p)))) h
  | configureMirror p =>
    exact takes_moves (asOneEvent_moves (ownerTakes_moves (.of_linesOnly (configureMirrorBody_linesOnly p)))) h
  | pulse p => exact takes_moves (asOneEvent_moves (ownerTakes_moves (.of_linesOnly (pulseBody_linesOnly p)))) h
  | readLines p => exact takes_moves (ownerTakes_moves (.of_linesOnly fun _ s => .refl s)) h
  | queryLine p => exact takes_moves (ownerTakes_moves (.of_linesOnly queryLineBody_linesOnly)) h
  | externalStateChange i x =>
    cases h
    split
    · exact .of_same rfl
    · exact (asOneEvent_moves (fun u => (writeLine_linesOnly i (u.line i) u).moves) _).from_same rfl
  | filteredReport i =>
    simp only [exec, execFilteredReport] at h
    refine takes_moves (fun u => ?_) h
    split
    · exact (asOneEvent_moves (fun v => (takeReport_linesOnly i _ v).moves) _).from_same rfl
    · exact .refl
  | arrival i =>
    simp only [exec, execArrival] at h
    refine takes_moves (fun u => ?_) h
    split
    · exact (takeArrival_moves i _ _).from_same rfl
    · exact .refl
  | sampleTick =>
    simp only [exec, execSampleTick] at h
    refine takes_moves (fun u => ?_) h
    split
    · exact .refl
    · exact (asOneEvent_moves (TableMoves.foldl sampleLine_moves allLines) u).to_same (tables_tickWaits _ _)
  | subscribe p =>
    simp only [exec, execSubscribe] at h
    refine takes_moves (fun u => ?_) h
    split
    · exact ownerTakes_moves (.of_same fun ps v => by rw [subscribeBody_frame]; rfl) u
    · exact .refl
  | unsubscribe p =>
    exact takes_moves (ownerTakes_moves (.of_same fun ps v => by rw [unsubscribeBody_frame]; rfl)) h
  | poll p => exact takes_moves (ownerTakes_moves (.of_same fun _ _ => rfl)) h
  | attention p => exact takes_moves (ownerTakes_moves (.of_linesOnly (attentionBody_linesOnly p))) h

/-- Every step makes moves of the lease table and the wait queue, one after another. -/
theorem step_moves {s t : State} (h : step s = .next t) : TableMoves s t := by
  unfold step at h
  split at h
  · cases h
    exact .refl
  · exact (exec_moves h).from_same rfl

/-- Settles O5: each move keeps the three laws, and every step is made of moves. -/
theorem stepKeepsLeaseTable : Obligations.StepKeepsLeaseTable := by
  intro s t h leases waiting disjoint
  have kept := (step_moves h).keep (P := fun u => LeaseTableLaw u ∧ WaitQueueLaw u ∧ DisjointLaw u)
    (fun move ⟨l, w, d⟩ => ⟨l.move move w, w.move move, d.move move⟩) ⟨leases, waiting, disjoint⟩
  obtain ⟨leases, -, disjoint⟩ := kept
  exact ⟨leases, disjoint⟩

/-- Settles O6: each move keeps the laws of the wait queue, where lease ids are distinct. -/
theorem stepKeepsWaitQueue : Obligations.StepKeepsWaitQueue := by
  intro s t h waiting own leases
  have moves := step_moves h
  have kept := moves.keep (P := fun u => WaitQueueLaw u ∧ OwnLineLaw u ∧ LeaseTableLaw u)
    (fun move ⟨w, o, l⟩ => ⟨w.move move, o.move move l, l.move move w⟩) ⟨waiting, own, leases⟩
  obtain ⟨waiting, own, -⟩ := kept
  exact ⟨waiting, own, moves.keep fun move law => law.move move⟩

end Sys2Proof.Machine
end

section
/-! PROOF. The rows of the table that take a host's command from its owner (R168): when each takes nothing, and what each
leaves of the ports and of the state when it answers (R10, R164, R169). -/

namespace Sys2Proof.Machine

/-! ### Rows -/

/-- R6, R133, R168: command `cmd` of port `p` waits with `tag` and parameters that the row takes, the arbiter serves the port
next where the lease controller owns the command, and a SUBSCRIBE has the arrivals of the end of device reset behind it. -/
def State.rowTakes (s : State) (p : Host) (cmd : Cmd) (applies : List Byte → Bool) (tag : Byte) : Prop :=
  (s.port p).slot = .pending tag cmd ∧ applies (s.port p).params = true
    ∧ (cmd.owner = .leaseController → s.arbiterPick = some p) ∧ (cmd = .subscribe → s.startUp = [])

/-- R168, R169: `f` is the event of a row whose command has this body: where the row takes no command it changes nothing, and
where it takes one it runs the body on the state, up to the lists of the event and the arbiter's record, and places the
result; a body that changes nothing leaves the rest of the state. -/
structure IsRow (f : State → State) (p : Host) (cmd : Cmd) (applies : List Byte → Bool)
    (body : List Byte → State → State × Reply) : Prop where
  idle : ∀ s : State, (∀ tag, ¬ s.rowTakes p cmd applies tag) → f s = s
  takes : ∀ (s : State) (tag : Byte), s.rowTakes p cmd applies tag → ∃ u : State,
    u = { s with arrivals := u.arrivals, reports := u.reports, lastServed := u.lastServed }
    ∧ (cmd.owner = .leaseController → u.lastServed = p)
    ∧ (f s).ports = ((body (s.port p).params u).1.updatePort p
        (PortState.placeResult tag cmd (body (s.port p).params u).2)).ports
    ∧ ((body (s.port p).params u).1 = u → f s = { s with ports := (f s).ports, lastServed := u.lastServed })

/-- R168: what an owner finds to take. -/
theorem waitsWith_some {s : State} {p : Host} {cmd : Cmd} {applies : List Byte → Bool} {tag : Byte} :
    s.waitsWith p cmd applies = some tag ↔ (s.port p).slot = .pending tag cmd ∧ applies (s.port p).params = true := by
  unfold State.waitsWith
  split
  · rename_i t c h
    by_cases hc : c = cmd <;> by_cases ha : applies (s.port p).params = true <;> simp [h, hc, ha]
  all_goals simp [*]

/-- The row of a command that no arbiter orders. -/
theorem IsRow.owner {p : Host} {cmd : Cmd} {applies : List Byte → Bool} {body : List Byte → State → State × Reply}
    (ho : cmd.owner ≠ .leaseController) (hs : cmd ≠ .subscribe) :
    IsRow (State.ownerTakes p cmd applies body) p cmd applies body where
  idle s h := by
    refine ownerTakes_idle (Option.eq_none_iff_forall_ne_some.mpr fun tag k => h tag ?_)
    obtain ⟨slot, params⟩ := waitsWith_some.mp k
    exact ⟨slot, params, fun k => absurd k ho, fun k => absurd k hs⟩
  takes s tag h := by
    obtain ⟨slot, params, -, -⟩ := h
    refine ⟨s, rfl, fun k => absurd k ho, by rw [ownerTakes_waiting slot params], fun k => ?_⟩
    rw [ownerTakes_waiting slot params, k]
    rfl

/-- The row of SUBSCRIBE (R133). -/
theorem IsRow.subscribe {p : Host} {body : List Byte → State → State × Reply} :
    IsRow (fun s => if s.startUp.isEmpty then s.ownerTakes p .subscribe (fun _ => true) body else s) p .subscribe
      (fun _ => true) body where
  idle s h := by
    split
    · rename_i empty
      refine ownerTakes_idle (Option.eq_none_iff_forall_ne_some.mpr fun tag k => h tag ?_)
      exact ⟨(waitsWith_some.mp k).1, rfl, by simp [Cmd.owner], fun _ => List.isEmpty_iff.mp empty⟩
    · rfl
  takes s tag h := by
    obtain ⟨slot, params, -, empty⟩ := h
    refine ⟨s, rfl, by simp [Cmd.owner], ?_, fun k => ?_⟩
    · rw [if_pos (List.isEmpty_iff.mpr (empty rfl)), ownerTakes_waiting slot params]
    · rw [if_pos (List.isEmpty_iff.mpr (empty rfl)), ownerTakes_waiting slot params, k]
      rfl

/-- The row of a command of the lease controller (R6, R7). -/
theorem IsRow.controller {p : Host} {cmd : Cmd} {body : List Byte → State → State × Reply}
    (ho : cmd.owner = .leaseController) :
    IsRow (State.leaseControllerTakes p cmd body) p cmd (fun _ => true) body where
  idle s h := by
    unfold State.leaseControllerTakes
    split
    · rename_i served
      refine ownerTakes_idle (Option.eq_none_iff_forall_ne_some.mpr fun tag k => h tag ?_)
      exact ⟨(waitsWith_some.mp k).1, rfl, fun _ => served, fun k => by simp [k, Cmd.owner] at ho⟩
    · rfl
  takes s tag h := by
    obtain ⟨slot, params, served, -⟩ := h
    unfold State.leaseControllerTakes
    rw [if_pos (served ho), ownerTakes_waiting slot rfl]
    refine ⟨{ s with lastServed := p }, rfl, fun _ => rfl, rfl, fun k => ?_⟩
    rw [k]
    rfl

/-- A row that is one event (R66). -/
theorem IsRow.oneEvent {f : State → State} {p : Host} {cmd : Cmd} {applies : List Byte → Bool}
    {body : List Byte → State → State × Reply} (row : IsRow f p cmd applies body) :
    IsRow (State.asOneEvent f) p cmd applies body where
  idle s h := by
    have kept := row.idle { s with arrivals := s.arrivals ++ [[]], reports := s.reports ++ [[]] } h
    rw [asOneEvent_of kept (as := []) (rs := []) rfl rfl]
    simp
  takes s tag h := by
    obtain ⟨u, start, served, placed, kept⟩ :=
      row.takes { s with arrivals := s.arrivals ++ [[]], reports := s.reports ++ [[]] } tag h
    refine ⟨u, by rw [start], served, placed, fun k => ?_⟩
    rw [asOneEvent_of (kept k) (as := []) (rs := []) rfl rfl]
    simp

/-! ### Bodies -/

/-- R10, R72, R164, R169: a body leaves the ports to its owner, answers with at most 56 bytes, and changes nothing and
returns no data where it refuses. -/
def WellAnswered (s : State) (r : State × Reply) : Prop :=
  r.1.ports = s.ports ∧ (LeaseTableLaw s → r.2.data.length ≤ 56)
    ∧ (r.2.status ≠ .ok → r.2.status ≠ .queued → r = (s, Reply.refuse r.2.status))

theorem WellAnswered.refuse (s : State) (st : Status) : WellAnswered s (s, Reply.refuse st) :=
  ⟨rfl, fun _ => Nat.zero_le _, fun _ _ => rfl⟩

theorem WellAnswered.ok {s t : State} {data : List Byte} (ports : t.ports = s.ports)
    (short : LeaseTableLaw s → data.length ≤ 56) : WellAnswered s (t, ⟨.ok, data⟩) :=
  ⟨ports, short, fun h => absurd rfl h⟩

theorem WellAnswered.queued {s t : State} {data : List Byte} (ports : t.ports = s.ports)
    (short : LeaseTableLaw s → data.length ≤ 56) : WellAnswered s (t, ⟨.queued, data⟩) :=
  ⟨ports, short, fun _ h => absurd rfl h⟩

theorem ControllerOnly.ports {s t : State} (h : ControllerOnly s t) : t.ports = s.ports := by
  unfold ControllerOnly at h
  rw [h]

theorem LinesOnly.ports {s t : State} (h : LinesOnly s t) : t.ports = s.ports := h.controllerOnly.ports

section

variable (caller : Host) (ps : List Byte) (s : State)

theorem claimBody_wellAnswered : WellAnswered s (State.claimBody caller ps s) := by
  unfold State.claimBody
  split
  · exact .refuse s _
  · rename_i es _
    rcases admission_cases s caller es (param ps 1).toNat with ⟨e, -⟩ | ⟨e, -⟩ | ⟨st, e, -⟩
    · rw [e]
      exact .ok (grant_controllerOnly _ _ _ s).ports fun _ => by simp
    · rw [e]
      exact .queued rfl fun _ => by simp
    · rw [e]
      exact .refuse s st

theorem cancelBody_wellAnswered : WellAnswered s (State.cancelBody caller ps s) := by
  unfold State.cancelBody
  split
  · exact .refuse s _
  · split
    · exact .ok ((removeClaims_controllerOnly _ none s).trans (scan_controllerOnly _)).ports fun _ => by simp
    · exact .refuse s _

theorem releaseBody_wellAnswered : WellAnswered s (State.releaseBody caller ps s) := by
  unfold State.releaseBody
  split
  · exact .refuse s _
  · exact .ok (endLeaseAndScan_controllerOnly _ _ s).ports fun _ => by simp

theorem renewBody_wellAnswered : WellAnswered s (State.renewBody caller ps s) := by
  unfold State.renewBody
  split
  · exact .refuse s _
  · exact .ok rfl fun _ => by simp

theorem renewAllBody_wellAnswered : WellAnswered s (State.renewAllBody caller ps s) := .ok rfl fun _ => by simp

/-- R2: a line set has at most 24 lines. -/
theorem EntriesOk.length_le {es : List LineEntry} (h : EntriesOk es) : es.length ≤ 24 := by
  simpa using h.nodup.length_le_card

theorem queryLeaseBody_wellAnswered : WellAnswered s (State.queryLeaseBody ps s) := by
  unfold State.queryLeaseBody
  split
  · refine .ok rfl fun law => ?_
    have entries : s.leases.length ≤ 16 := law.1
    simp only [listingBytes, List.length_cons, List.length_map]
    omega
  · split
    · rename_i l found
      refine .ok rfl fun law => ?_
      have lines := (law.fields (findLease_some found).1).lines.length_le
      simp only [leaseBytes, bytes16, List.length_append, List.length_cons, List.length_nil, List.length_map]
      omega
    · exact .refuse s _

theorem offerBody_wellAnswered : WellAnswered s (State.offerBody caller ps s) := by
  unfold State.offerBody
  split
  · exact .refuse s _
  · exact .ok rfl fun _ => by simp

theorem acceptBody_wellAnswered : WellAnswered s (State.acceptBody caller ps s) := by
  unfold State.acceptBody
  split
  · exact .refuse s _
  · split
    · exact .refuse s _
    · exact .ok (((transfer_controllerOnly _ caller s).trans (removeClaims_controllerOnly _ _ _)).trans
        (scanIf_controllerOnly _ _)).ports fun _ => by simp

theorem declineBody_wellAnswered : WellAnswered s (State.declineBody caller ps s) := by
  unfold State.declineBody
  split
  · exact .refuse s _
  · exact .ok rfl fun _ => by simp

theorem revokeBody_wellAnswered : WellAnswered s (State.revokeBody caller ps s) := by
  unfold State.revokeBody
  split
  · exact .refuse s _
  · split
    · exact .refuse s _
    · exact .ok (endLeaseAndScan_controllerOnly _ _ s).ports fun _ => by simp

theorem reserveBody_wellAnswered : WellAnswered s (State.reserveBody caller ps s) := by
  unfold State.reserveBody
  split
  · exact .refuse s _
  · split
    · exact .refuse s _
    · split
      · exact .refuse s _
      · rename_i a _
        have removed := removeClaims_controllerOnly (excludedBy (paramMask ps 0) a) (some .denied)
          (s.reserveLines (paramMask ps 0) a)
        exact .ok (removed.trans (scanIf_controllerOnly _ _)).ports fun _ => by simp

theorem teardown_ports (n : Host) (supervisor : Option Host) : (s.teardown n supervisor).ports = s.ports :=
  (teardown_frame n supervisor s).ports

theorem detachBody_wellAnswered : WellAnswered s (State.detachBody caller ps s) :=
  .ok (teardown_ports s caller none) fun _ => by simp [State.teardownCounts]

theorem clearHostBody_wellAnswered : WellAnswered s (State.clearHostBody caller ps s) := by
  unfold State.clearHostBody
  split
  · exact .refuse s _
  · split
    · exact .refuse s _
    · exact .ok (teardown_ports s _ _) fun _ => by simp [State.teardownCounts]

theorem setLevelBody_wellAnswered : WellAnswered s (State.setLevelBody caller ps s) := by
  unfold State.setLevelBody
  split
  · exact .refuse s _
  · exact .ok (LinesOnly.foldl (fun t i => driveLine_linesOnly i _ t) _ s).ports fun _ => by simp

theorem configureBody_wellAnswered : WellAnswered s (State.configureBody caller ps s) := by
  unfold State.configureBody
  split
  · exact .refuse s _
  · exact .ok ((writeLine_linesOnly _ _ s).trans (present_linesOnly _ _)).ports fun _ => by simp

theorem configureMirrorBody_wellAnswered : WellAnswered s (State.configureMirrorBody caller ps s) := by
  unfold State.configureMirrorBody
  split
  · exact .refuse s _
  · split
    · exact .refuse s _
    · exact .ok (configureMirrorLine_linesOnly caller _ _ _ s).ports fun _ => by simp

theorem pulseBody_wellAnswered : WellAnswered s (State.pulseBody caller ps s) := by
  unfold State.pulseBody
  split
  · exact .refuse s _
  · exact .ok (driveLine_linesOnly _ _ s).ports fun _ => by simp

theorem readLinesBody_wellAnswered : WellAnswered s (State.readLinesBody ps s) :=
  .ok rfl fun _ => by simp [maskBytes]

/-- R187: the record of a line has 18 bytes. -/
theorem lineBytes_length (i : Line) (r : LineRec) (filtered : Level) (allowed : HostSet) :
    (lineBytes i r filtered allowed).length = 18 := by
  unfold lineBytes functionBytes pulseBytes holderBytes bytes16
  rcases r.function with _ | _ | _ <;> rcases r.holder with _ | _ <;> rfl

theorem queryLineBody_wellAnswered : WellAnswered s (State.queryLineBody ps s) := by
  unfold State.queryLineBody
  split
  · exact .refuse s _
  · exact .ok rfl fun _ => by simp [lineBytes_length]

theorem subscribeBody_wellAnswered : WellAnswered s (State.subscribeBody caller ps s) := by
  unfold State.subscribeBody
  split
  · exact .refuse s _
  · split
    · exact .ok rfl fun _ => by simp
    · exact .refuse s _

theorem unsubscribeBody_wellAnswered : WellAnswered s (State.unsubscribeBody caller ps s) := by
  unfold State.unsubscribeBody
  split
  · exact .refuse s _
  · exact .ok rfl fun _ => by simp

/-- R188: an event record has 8 bytes. -/
theorem recordBytes_length (r : EventRecord) : (recordBytes r).length = 8 := by
  unfold recordBytes Event.fields bytes16
  cases r.event <;> rfl

/-- R146: a POLL returns 8 bytes for each record it asks for at most. -/
theorem firstRecords_length_le (q : EventQueue) (n : Nat) : (q.firstRecords n).length ≤ 8 * n := by
  unfold EventQueue.firstRecords
  rw [List.length_flatMap, List.map_congr_left (g := fun _ => 8) fun r _ => recordBytes_length r]
  simp only [List.map_const', List.sum_replicate, List.length_take, smul_eq_mul]
  omega

/-- An event queue that is put back as it was leaves the state. -/
theorem updateQueue_self (h : Host) : (s.updateQueue h fun _ => s.eventQueue h) = s := by
  unfold State.updateQueue updateHost State.eventQueue
  simp

/-- R143, R144, R146: POLL refuses and leaves the queue, or answers OK with at most 7 records. -/
theorem poll_cases (now : Timestamp) (q : EventQueue) :
    (∃ st, q.poll now ps = (q, Reply.refuse st)) ∨ ∃ t data, q.poll now ps = (t, ⟨.ok, data⟩) ∧ data.length ≤ 56 := by
  unfold EventQueue.poll
  split
  · exact .inl ⟨_, rfl⟩
  · split
    · exact .inl ⟨_, rfl⟩
    · rename_i maximum
      split
      · exact .inl ⟨_, rfl⟩
      · exact .inr ⟨_, _, rfl, (firstRecords_length_le _ _).trans (by omega)⟩

theorem pollBody_wellAnswered : WellAnswered s (State.pollBody caller ps s) := by
  unfold State.pollBody
  rcases poll_cases ps s.timestamp (s.eventQueue caller) with ⟨st, e⟩ | ⟨t, data, e, short⟩
  · rw [e]
    dsimp only
    rw [updateQueue_self]
    exact .refuse s st
  · rw [e]
    exact .ok rfl fun _ => short

theorem attentionBody_wellAnswered : WellAnswered s (State.attentionBody caller ps s) := by
  unfold State.attentionBody
  split
  · exact .refuse s _
  · exact .ok rfl fun _ => by simp

end

/-! ### Every row -/

/-- Every row that takes a host's command is one whose body answers well. -/
theorem exec_row {i : Instr} {p : Host} {cmd : Cmd} (h : Instr.ownerCommand i = some (p, cmd)) :
    ∃ f body, (∀ s, exec i s = s.takes f) ∧ IsRow f p cmd (Instr.takesParams i) body
      ∧ ∀ ps s, WellAnswered s (body ps s) := by
  cases i with
  | claim q => cases h; exact ⟨_, _, fun _ => rfl, .controller rfl, claimBody_wellAnswered p⟩
  | cancelClaim q => cases h; exact ⟨_, _, fun _ => rfl, .controller rfl, cancelBody_wellAnswered p⟩
  | release q =>
    cases h; exact ⟨_, _, fun _ => rfl, (IsRow.controller rfl).oneEvent, releaseBody_wellAnswered p⟩
  | renew q => cases h; exact ⟨_, _, fun _ => rfl, .controller rfl, renewBody_wellAnswered p⟩
  | renewAll q => cases h; exact ⟨_, _, fun _ => rfl, .controller rfl, renewAllBody_wellAnswered p⟩
  | queryLease q => cases h; exact ⟨_, _, fun _ => rfl, .controller rfl, queryLeaseBody_wellAnswered⟩
  | offer q => cases h; exact ⟨_, _, fun _ => rfl, .controller rfl, offerBody_wellAnswered p⟩
  | accept q => cases h; exact ⟨_, _, fun _ => rfl, .controller rfl, acceptBody_wellAnswered p⟩
  | decline q => cases h; exact ⟨_, _, fun _ => rfl, .controller rfl, declineBody_wellAnswered p⟩
  | revoke q =>
    cases h; exact ⟨_, _, fun _ => rfl, (IsRow.controller rfl).oneEvent, revokeBody_wellAnswered p⟩
  | reserve q => cases h; exact ⟨_, _, fun _ => rfl, .controller rfl, reserveBody_wellAnswered p⟩
  | detach q =>
    cases h; exact ⟨_, _, fun _ => rfl, (IsRow.controller rfl).oneEvent, detachBody_wellAnswered p⟩
  | clearHost q =>
    cases h; exact ⟨_, _, fun _ => rfl, (IsRow.controller rfl).oneEvent, clearHostBody_wellAnswered p⟩
  | setLevel q =>
    cases h
    exact ⟨_, _, fun _ => rfl, (IsRow.owner (by decide) (by decide)).oneEvent, setLevelBody_wellAnswered p⟩
  | configure q =>
    cases h
    exact ⟨_, _, fun _ => rfl, (IsRow.owner (by decide) (by decide)).oneEvent, configureBody_wellAnswered p⟩
  | configureMirror q =>
    cases h
    exact ⟨_, _, fun _ => rfl, (IsRow.owner (by decide) (by decide)).oneEvent, configureMirrorBody_wellAnswered p⟩
  | pulse q =>
    cases h
    exact ⟨_, _, fun _ => rfl, (IsRow.owner (by decide) (by decide)).oneEvent, pulseBody_wellAnswered p⟩
  | readLines q => cases h; exact ⟨_, _, fun _ => rfl, .owner (by decide) (by decide), readLinesBody_wellAnswered⟩
  | queryLine q => cases h; exact ⟨_, _, fun _ => rfl, .owner (by decide) (by decide), queryLineBody_wellAnswered⟩
  | subscribe q => cases h; exact ⟨_, _, fun _ => rfl, .subscribe, subscribeBody_wellAnswered p⟩
  | unsubscribe q =>
    cases h; exact ⟨_, _, fun _ => rfl, .owner (by decide) (by decide), unsubscribeBody_wellAnswered p⟩
  | poll q => cases h; exact ⟨_, _, fun _ => rfl, .owner (by decide) (by decide), pollBody_wellAnswered p⟩
  | attention q => cases h; exact ⟨_, _, fun _ => rfl, .owner (by decide) (by decide), attentionBody_wellAnswered p⟩
  | deviceReset | deviceResetEnd | millisecondTick | settleExpiry | renewExpiry | waitLapse | offerLapse
  | pulseCompletion | busTimeout | busError | startCondition | stopCondition | addressByte | commandFrame | responseRead
  | externalStateChange | filteredReport | arrival | sampleTick => cases h

/-- Whether a port is answered shows in the ports alone. -/
theorem Answered.of_ports {p : Host} {tag : Byte} {cmd : Cmd} {st : Status} {data : List Byte} {s t u : State}
    (h : Answered p tag cmd st data s t) (ports : u.ports = t.ports) : Answered p tag cmd st data s u := by
  have same : ∀ q, u.port q = t.port q := fun q => by simp [State.port, ports]
  unfold Answered at h ⊢
  simp only [same]
  exact h

/-- R169: where a row takes a command, the body it runs answers the port. -/
theorem IsRow.answered {f : State → State} {p : Host} {cmd : Cmd} {applies : List Byte → Bool}
    {body : List Byte → State → State × Reply} (row : IsRow f p cmd applies body)
    (good : ∀ ps s, WellAnswered s (body ps s)) {s : State} {tag : Byte} (h : s.rowTakes p cmd applies tag) :
    ∃ u : State, u.tables = s.tables ∧ (cmd.owner = .leaseController → u.lastServed = p)
      ∧ Answered p tag cmd (body (s.port p).params u).2.status (body (s.port p).params u).2.data s (f s)
      ∧ ((body (s.port p).params u).1 = u → f s = { s with ports := (f s).ports, lastServed := u.lastServed }) := by
  obtain ⟨u, start, served, placed, kept⟩ := row.takes s tag h
  have ports : u.ports = s.ports := by rw [start]
  exact ⟨u, by rw [start]; rfl, served, (answered_placeResult ((good _ u).1.trans ports)).of_ports placed, kept⟩

/-- Settles O53, by the rows: each takes nothing while its command does not wait for it, and else answers it. -/
theorem ownersPlaceTheirResult : Obligations.OwnersPlaceTheirResult := by
  refine ⟨fun i s p cmd hi idle => ?_, fun i s p cmd tag hi waiting takes served started law => ?_⟩
  · obtain ⟨f, body, meaning, row, -⟩ := exec_row hi
    rw [meaning, State.takes, row.idle s, ite_self]
    rintro tag ⟨slot, params, served, started⟩
    rcases idle with idle | ⟨owner, other⟩ | ⟨rfl, starting⟩ | refused
    · exact idle tag slot
    · exact other (served owner)
    · exact starting (started rfl)
    · simp [refused] at params
  · obtain ⟨f, body, meaning, row, good⟩ := exec_row hi
    obtain ⟨running, slot⟩ := waiting
    obtain ⟨u, tables, -, answered, -⟩ := row.answered good ⟨slot, takes, served, started⟩
    exact ⟨f s, _, _, by rw [meaning, takes_running running], answered, (good _ u).2.1 (law.congr tables)⟩

/-- Settles O54: a body that refuses changes nothing, and its row only places the result. -/
theorem refusedLeaseCommandsChangeNothing : Obligations.RefusedLeaseCommandsChangeNothing := by
  intro i s t p cmd tag tag' code st data hi owner served hx slot notOk notQueued
  obtain ⟨f, body, meaning, row, good⟩ := exec_row hi
  obtain ⟨⟨running, waiting⟩, pick⟩ := served
  have takes : s.rowTakes p cmd (Instr.takesParams i) tag := by
    refine ⟨waiting, ?_, fun _ => pick, fun e => by simp [e, Cmd.owner] at owner⟩
    cases i <;> cases hi <;> simp [Cmd.owner] at owner <;> rfl
  obtain ⟨u, -, last, answered, kept⟩ := row.answered good takes
  rw [meaning, takes_running running] at hx
  cases hx
  have status : (body (s.port p).params u).2.status = st := by
    rw [answered.2] at slot
    exact (Slot.ready.inj slot).1
  have refused := (good (s.port p).params u).2.2 (status ▸ notOk) (status ▸ notQueued)
  rw [status] at refused
  rw [refused] at answered kept
  exact ⟨last owner ▸ kept rfl, answered⟩

end Sys2Proof.Machine
end

section
/-! PROOF. CLAIM, RENEW, RENEW_ALL, QUERY_LEASE and the holder check (R9 to R15, R21, R22, R25, R26). -/

namespace Sys2Proof.Machine

/-! ### A command that the arbiter serves -/

/-- R6, R7: what the body of a command of the lease controller finds: the state with port `p` served, and the lists of the
event. -/
def State.servedAt (s : State) (p : Host) (as rs : List (List LevelChange)) : State :=
  { s with arrivals := as, reports := rs, lastServed := p }

/-- R6, R10: a body that changes nothing leaves the answer and the arbiter's record. -/
theorem exec_kept {i : Instr} {f : State → State} {s : State} {p : Host} {cmd : Cmd} {tag : Byte} {r : Reply}
    {body : List Byte → State → State × Reply} (meaning : ∀ s, exec i s = s.takes f)
    (row : IsRow f p cmd (fun _ => true) body) (owner : cmd.owner = .leaseController) (served : Served s p cmd tag)
    (hb : ∀ as rs, body (s.port p).params (s.servedAt p as rs) = (s.servedAt p as rs, r)) :
    ∃ t, exec i s = .next t ∧ t = { s with ports := t.ports, lastServed := p }
      ∧ Answered p tag cmd r.status r.data s t := by
  obtain ⟨⟨running, waiting⟩, pick⟩ := served
  obtain ⟨u, start, last, placed, kept⟩ :=
    row.takes s tag ⟨waiting, rfl, fun _ => pick, fun e => by simp [e, Cmd.owner] at owner⟩
  have hu : body (s.port p).params u = (u, r) := by
    rw [start, last owner]
    exact hb u.arrivals u.reports
  have ports : u.ports = s.ports := by rw [start]
  rw [hu] at placed kept
  exact ⟨f s, by rw [meaning, takes_running running], last owner ▸ kept rfl,
    (answered_placeResult ports).of_ports placed⟩

/-- R6, R7, R169: what a row that is not one event of its own leaves when the arbiter serves its command: the state of the
body with the port answered. -/
theorem exec_changed {i : Instr} {s u : State} {p : Host} {cmd : Cmd} {tag : Byte} {r : Reply}
    {body : List Byte → State → State × Reply}
    (meaning : ∀ s, exec i s = s.takes (State.leaseControllerTakes p cmd body))
    (served : Served s p cmd tag) (hb : body (s.port p).params { s with lastServed := p } = (u, r))
    (ports : u.ports = s.ports) :
    ∃ t, exec i s = .next t ∧ t = { u with ports := t.ports } ∧ Answered p tag cmd r.status r.data s t := by
  refine ⟨u.updatePort p (PortState.placeResult tag cmd r), ?_, rfl, answered_placeResult ports⟩
  rw [meaning, takes_running served.1.1, leaseControllerTakes_served served, hb]

/-! ### CLAIM -/

section

variable {s : State} {h : Host} {es : List LineEntry}

theorem allowsAll_iff : s.allowsAll h es = true ↔ ∀ e ∈ es, HostSet.has (s.allowedOn e.line) h = true := by
  simp [State.allowsAll]

/-- R13: no line of the claim is held or waited for. -/
theorem uncontested_iff : (s.allFree es && unclaimed s.queue es) = true ↔
    ∀ e ∈ es, (∀ l ∈ s.leases, coversLine l.entries e.line = false)
      ∧ ∀ c ∈ s.queue, coversLine c.entries e.line = false := by
  simp only [Bool.and_eq_true, allFree_iff, unclaimed_iff, sharesLine_eq_false]
  exact ⟨fun h e he => ⟨fun l hl => h.1 l hl e he, fun c hc => h.2 c hc e he⟩,
    fun h => ⟨fun l hl e he => (h e he).1 l hl, fun c hc e he => (h e he).2 c hc⟩⟩

/-- R13: some line of the claim is held or waited for. -/
theorem contested_iff : (s.allFree es && unclaimed s.queue es) = false ↔
    ∃ e ∈ es, (∃ l ∈ s.leases, coversLine l.entries e.line = true)
      ∨ ∃ c ∈ s.queue, coversLine c.entries e.line = true := by
  rw [← Bool.not_eq_true, uncontested_iff]
  simp only [not_forall, not_and_or, Bool.not_eq_false, exists_prop]

/-- R12: no line of the claim belongs to the caller. -/
theorem notOwn_iff : s.ownsLine h es = false ↔
    ∀ e ∈ es, (∀ l ∈ s.leases, l.holder = h → coversLine l.entries e.line = false)
      ∧ ∀ c ∈ s.queue, c.host = h → coversLine c.entries e.line = false := by
  simp only [ownsLine_eq_false, sharesLine_eq_false]
  exact ⟨fun k e he => ⟨fun l hl o => k.1 l hl o e he, fun c hc o => k.2 c hc o e he⟩,
    fun k => ⟨fun l hl o e he => (k e he).1 l hl o, fun c hc o e he => (k e he).2 c hc o⟩⟩

/-- R12: some line of the claim belongs to the caller. -/
theorem own_iff : s.ownsLine h es = true ↔
    ∃ e ∈ es, (∃ l ∈ s.leases, l.holder = h ∧ coversLine l.entries e.line = true)
      ∨ ∃ c ∈ s.queue, c.host = h ∧ coversLine c.entries e.line = true := by
  rw [← Bool.not_eq_false, notOwn_iff]
  simp only [not_forall, not_and_or, Bool.not_eq_false, exists_prop]

theorem hasEntry_iff : s.hasEntry = true ↔ s.leases.length < 16 := decide_eq_true_iff

theorem hasNoEntry_iff : s.hasEntry = false ↔ 16 ≤ s.leases.length := by
  rw [← Bool.not_eq_true, hasEntry_iff, Nat.not_lt]

theorem queueFullFor_iff : s.queueFullFor h = true ↔
    8 ≤ s.queue.length ∨ 2 ≤ (s.queue.filter fun c => c.host == h).length := by
  simp only [State.queueFullFor, Bool.or_eq_true, decide_eq_true_iff]
  rfl

variable {ps : List Byte} (form : claimEntries (ps.drop 3) = some es)

include form

theorem claimBody_granted (granted : s.admission h es (param ps 1).toNat = .granted) :
    State.claimBody h ps s = (s.grant h es (param ps 0).toNat, ⟨.ok, [byteOf s.nextLeaseId]⟩) := by
  simp only [State.claimBody, form, granted]

theorem claimBody_queued (queued : s.admission h es (param ps 1).toNat = .queued) :
    State.claimBody h ps s =
      (s.place h es (param ps 0).toNat (param ps 1).toNat, ⟨.queued, [byteOf s.nextTicket]⟩) := by
  simp only [State.claimBody, form, queued]

theorem claimBody_refused {st : Status} (refused : s.admission h es (param ps 1).toNat = .refused st) :
    State.claimBody h ps s = (s, Reply.refuse st) := by
  simp only [State.claimBody, form, refused]

end

/-- R11 to R13: a claim that is refused is answered, and nothing else changes. -/
theorem exec_claim_refused {s : State} {p : Host} {tag : Byte} {es : List LineEntry} {st : Status}
    (served : Served s p .claim tag) (form : claimEntries ((s.port p).params.drop 3) = some es)
    (refused : s.admission p es (s.arg p 1) = .refused st) :
    ∃ t, exec (.claim p) s = .next t ∧ Answered p tag .claim st [] s t := by
  obtain ⟨t, ht, -, answered⟩ := exec_kept (i := .claim p) (body := State.claimBody p) (fun _ => rfl) (.controller rfl)
    rfl served fun as rs => claimBody_refused (s := s.servedAt p as rs) form refused
  exact ⟨t, ht, answered⟩

/-- R68: binding lines reaches the line records alone. -/
theorem bindLines_frame (es : List LineEntry) (b : Binding) (s : State) :
    s.bindLines es b = { s with lines := (s.bindLines es b).lines } :=
  foldl_rel (rel := fun s t : State => t = { s with lines := t.lines }) (fun _ => rfl)
    (fun h k => by rw [h] at k; exact k) (fun _ _ => rfl) es s

/-- R14: a grant reaches the lease table, its counter and the line records alone. -/
theorem grant_frame (h : Host) (es : List LineEntry) (interval : Nat) (s : State) :
    s.grant h es interval = { s with
      leases := (s.grant h es interval).leases, leaseCounter := nextNumber s.nextLeaseId
      lines := (s.grant h es interval).lines } := by
  unfold State.grant
  dsimp only
  rw [bindLines_frame]

/-- Settles O21: the checks of R12 and R13 all pass, so that the claim is granted. -/
theorem claimGrantsFreeLines : Obligations.ClaimGrantsFreeLines := by
  intro s p tag es served form free room
  have allowed : s.allowsAll p es = true := allowsAll_iff.mpr fun e he => (free e he).1
  have own : s.ownsLine p es = false :=
    notOwn_iff.mpr fun e he => ⟨fun l hl _ => (free e he).2.1 l hl, fun c hc _ => (free e he).2.2 c hc⟩
  have uncontested := uncontested_iff.mpr fun e he => (free e he).2
  have granted : s.admission p es (s.arg p 1) = .granted := by
    simp [State.admission, allowed, own, uncontested, hasEntry_iff.mpr room]
  obtain ⟨t, ht, frame, answered⟩ := exec_changed (i := .claim p) (body := State.claimBody p) (fun _ => rfl) served
    (claimBody_granted (s := { s with lastServed := p }) form granted) (grant_controllerOnly _ _ _ _).ports
  refine ⟨t, ht, ?_, ?_, fun i => ?_, answered⟩
  · rw [frame, grant_frame]
    rfl
  · rw [frame]
    exact grant_leases p es (s.arg p 0) { s with lastServed := p }
  · rw [frame]
    exact line_grant p es (s.arg p 0) { s with lastServed := p } i

/-- Settles O22: a claim that cannot be granted now, has room in the queue and may wait, is placed. -/
theorem claimWaitsAtTheTail : Obligations.ClaimWaitsAtTheTail := by
  intro s p tag es served form allowed notHeld notWaiting contested limit places hosts
  have allowed : s.allowsAll p es = true := allowsAll_iff.mpr allowed
  have own : s.ownsLine p es = false :=
    notOwn_iff.mpr fun e he => ⟨fun l hl o => notHeld l hl o e he, fun c hc o => notWaiting c hc o e he⟩
  have room : s.queueFullFor p = false := queueFullFor_eq_false.mpr ⟨places, hosts⟩
  have notNow : (s.allFree es && unclaimed s.queue es && s.hasEntry) = false := by
    rcases contested with full | contested
    · rw [hasNoEntry_iff.mpr full, Bool.and_false]
    · rw [contested_iff.mpr contested, Bool.false_and]
  have queued : s.admission p es (s.arg p 1) = .queued := by
    simp [State.admission, allowed, own, notNow, limit, room]
  obtain ⟨t, ht, frame, answered⟩ := exec_changed (i := .claim p) (body := State.claimBody p) (fun _ => rfl) served
    (claimBody_queued (s := { s with lastServed := p }) form queued) rfl
  refine ⟨t, ht, ?_, ?_, answered⟩
  · rw [frame]
    rfl
  · rw [frame]
    rfl

/-- Settles O23: each refusal is the first check of R12 and R13 that fails. -/
theorem claimRefusalsInOrder : Obligations.ClaimRefusalsInOrder := by
  intro s p tag served
  refine ⟨fun form => ?_, fun es form => ⟨fun denied => ?_, fun allowed => ⟨fun own => ?_, fun own =>
    ⟨fun contested limit => ?_, fun free full limit => ?_, fun contested limit full => ?_⟩⟩⟩⟩
  · obtain ⟨t, ht, -, answered⟩ := exec_kept (i := .claim p) (body := State.claimBody p) (r := Reply.refuse .badParam)
      (fun _ => rfl) (.controller rfl) rfl served fun as rs => by simp only [State.claimBody, form]
    exact ⟨t, ht, answered⟩
  · have denied : s.allowsAll p es = false := by
      rw [← Bool.not_eq_true, allowsAll_iff]
      simpa using denied
    exact exec_claim_refused served form (by simp [State.admission, denied])
  all_goals
    have allowed : s.allowsAll p es = true := allowsAll_iff.mpr allowed
  · have own : s.ownsLine p es = true := own_iff.mpr own
    exact exec_claim_refused served form (by simp [State.admission, allowed, own])
  all_goals
    have own : s.ownsLine p es = false := notOwn_iff.mpr own
  · have contested := contested_iff.mpr contested
    exact exec_claim_refused served form (by simp [State.admission, allowed, own, contested, limit])
  · have free := uncontested_iff.mpr free
    have full : s.hasEntry = false := hasNoEntry_iff.mpr full
    exact exec_claim_refused served form (by simp [State.admission, allowed, own, free, full, limit])
  · have full : s.queueFullFor p = true := queueFullFor_iff.mpr full
    have notNow : (s.allFree es && unclaimed s.queue es && s.hasEntry) = false := by
      rcases contested with noEntry | contested
      · rw [hasNoEntry_iff.mpr noEntry, Bool.and_false]
      · rw [contested_iff.mpr contested, Bool.false_and]
    exact exec_claim_refused served form (by simp [State.admission, allowed, own, notNow, limit, full])

/-! ### RENEW and RENEW_ALL -/

/-- R9: the holder's lease passes the holder check. -/
theorem heldLease_of_mem {s : State} {l : Lease} (law : LeaseTableLaw s) (hl : l ∈ s.leases) :
    s.heldLease l.holder l.id = .ok l := by
  simp [State.heldLease, findLease_of_mem law.sorted hl]

/-- Settles O27: the body updates the one lease with the id, which is the lease itself. -/
theorem renewRestartsTheTimer : Obligations.RenewRestartsTheTimer := by
  intro s p tag l served law hl id holder
  have held : State.heldLease { s with lastServed := p } p (param (s.port p).params 0).toNat = .ok l := by
    have := heldLease_of_mem law hl
    rw [id, holder] at this
    exact this
  obtain ⟨t, ht, frame, answered⟩ := exec_changed (i := .renew p) (body := State.renewBody p) (r := Reply.ok)
    (u := State.updateLease l.id Lease.renewed { s with lastServed := p }) (fun _ => rfl) served
    (by simp only [State.renewBody, held]) rfl
  refine ⟨t, ht, by rw [frame]; rfl, ?_, answered⟩
  rw [frame]
  refine List.map_congr_left fun m hm => ?_
  split
  · rename_i same
    rw [law.eq_of_id hl hm same]
    rfl
  · rfl

/-- Settles O28: the body renews the leases of the caller in place. -/
theorem renewAllRenewsEveryLease : Obligations.RenewAllRenewsEveryLease := by
  intro s p tag served
  obtain ⟨t, ht, frame, answered⟩ := exec_changed (i := .renewAll p) (body := State.renewAllBody p)
    (fun _ => rfl) served rfl rfl
  exact ⟨t, ht, by rw [frame], by rw [frame]; rfl, answered⟩

/-! ### QUERY_LEASE -/

/-- R25, R186: the record of a lease, byte by byte. -/
theorem leaseBytes_eq (l : Lease) : leaseBytes l =
    [byteOf l.id, byteOf l.holder.val, if l.offer.isSome then 1 else 0, byteOf l.interval,
      byteOf (l.remaining.getD 0xFFFF), byteOf (l.remaining.getD 0xFFFF / 256),
      (l.offer.map fun o => byteOf o.target.val).getD 0xFF, (l.offer.map fun o => byteOf o.remaining).getD 0xFF,
      byteOf l.entries.length] ++ l.entries.map entryByte := by
  unfold leaseBytes bytes16
  cases l.offer <;> rfl

/-- Settles O29: each id is answered as the body's one search of the table finds it. -/
theorem queryLeaseReportsTheRecord : Obligations.QueryLeaseReportsTheRecord := by
  intro s p tag served law
  have zero : param (s.port p).params 0 = 0 ↔ s.arg p 0 = 0 := BitVec.toNat_inj.symm
  have answer : ∀ r, (∀ u : State, u.leases = s.leases → State.queryLeaseBody (s.port p).params u = (u, r)) →
      ∃ t, exec (.queryLease p) s = .next t ∧ t = { s with ports := t.ports, lastServed := p }
        ∧ Answered p tag .queryLease r.status r.data s t := fun r h =>
    exec_kept (body := State.queryLeaseBody) (fun _ => rfl) (.controller rfl) rfl served fun as rs => h _ rfl
  refine ⟨fun listing => answer ⟨.ok, listingBytes s.leases⟩ fun u hu => ?_, fun l hl id => ?_, fun named absent =>
    answer (Reply.refuse .noLease) fun u hu => ?_⟩
  · rw [State.queryLeaseBody, if_pos (zero.mpr listing), hu]
  · rw [← leaseBytes_eq]
    refine answer ⟨.ok, leaseBytes l⟩ fun u hu => ?_
    have named : param (s.port p).params 0 ≠ 0 := fun k => by
      obtain ⟨⟨positive, -⟩, -⟩ := law.fields hl
      rw [id, zero.mp k] at positive
      omega
    have found : u.findLease (param (s.port p).params 0).toNat = some l := by
      rw [State.findLease, hu]
      exact (congrArg s.findLease id).symm.trans (findLease_of_mem law.sorted hl)
    rw [State.queryLeaseBody, if_neg named, found]
  · have found : u.findLease (param (s.port p).params 0).toNat = none := by
      rw [State.findLease, hu]
      exact findLease_none absent
    rw [State.queryLeaseBody, if_neg (zero.not.mpr named), found]

/-! ### The holder check -/

/-- R9: a lease of another host does not pass the holder check. -/
theorem heldLease_of_other {s : State} {l : Lease} {caller : Host} (law : LeaseTableLaw s) (hl : l ∈ s.leases)
    (other : l.holder ≠ caller) : s.heldLease caller l.id = .error .notHolder := by
  simp [State.heldLease, findLease_of_mem law.sorted hl, other]

/-- R9: an id that names no live lease does not pass the holder check. -/
theorem heldLease_of_none {s : State} {id : Nat} (caller : Host) (h : ∀ l ∈ s.leases, l.id ≠ id) :
    s.heldLease caller id = .error .noLease := by
  simp [State.heldLease, findLease_none h]

/-- R9, R10: RELEASE, RENEW and OFFER answer what the holder check refuses, and change nothing. -/
theorem exec_notHeld {s : State} {p : Host} {tag : Byte} {i : Instr} {cmd : Cmd} {st : Status}
    (hi : i = .release p ∧ cmd = .release ∨ i = .renew p ∧ cmd = .renew ∨ i = .offer p ∧ cmd = .offer)
    (served : Served s p cmd tag) (check : s.heldLease p (s.arg p 0) = .error st) :
    ∃ t, exec i s = .next t ∧ t = { s with ports := t.ports, lastServed := p } ∧ Answered p tag cmd st [] s t := by
  have check : ∀ as rs, (s.servedAt p as rs).heldLease p (param (s.port p).params 0).toNat = .error st :=
    fun _ _ => check
  rcases hi with ⟨rfl, rfl⟩ | ⟨rfl, rfl⟩ | ⟨rfl, rfl⟩
  · exact exec_kept (body := State.releaseBody p) (r := Reply.refuse st) (fun _ => rfl) (IsRow.controller rfl).oneEvent
      rfl served fun as rs => by simp only [State.releaseBody, check]
  · exact exec_kept (body := State.renewBody p) (r := Reply.refuse st) (fun _ => rfl) (.controller rfl)
      rfl served fun as rs => by simp only [State.renewBody, check]
  · exact exec_kept (body := State.offerBody p) (r := Reply.refuse st) (fun _ => rfl) (.controller rfl)
      rfl served fun as rs => by simp only [State.offerBody, State.offerCheck, check]

/-- Settles O30: all three bodies begin with the holder check of R9. -/
theorem holderCheckRefusesOtherHosts : Obligations.HolderCheckRefusesOtherHosts := by
  intro s p tag i cmd hi served law
  refine ⟨fun absent => exec_notHeld hi served (heldLease_of_none p absent), fun l hl id other => ?_⟩
  exact exec_notHeld hi served (id ▸ heldLease_of_other law hl other)

end Sys2Proof.Machine
end

section
/-! PROOF. The values of device reset and the laws there (R27, R45, R61, R104, R120, R121, R135, R154, R179). -/

namespace Sys2Proof.Machine

/-! ### What the tables of the reset state read -/

@[simp] theorem line_reset (i : Line) : State.reset.line i = LineRec.reset := by simp [State.line, State.reset]

@[simp] theorem input_reset (i : Line) : State.reset.input i = InputRec.reset := by simp [State.input, State.reset]

@[simp] theorem allowedOn_reset (i : Line) : State.reset.allowedOn i = 0b1111#4 := by
  simp [State.allowedOn, State.reset]

@[simp] theorem subscription_reset (h : Host) (i : Line) : State.reset.subscription h i = none := by
  simp [State.subscription, State.reset]

@[simp] theorem eventQueue_reset (h : Host) : State.reset.eventQueue h = EventQueue.reset := by
  simp [State.eventQueue, State.reset]

@[simp] theorem port_reset (p : Host) : State.reset.port p = PortState.reset := by simp [State.port, State.reset]

/-! ### The laws -/

theorem noGrantableLaw_reset : NoGrantableLaw State.reset := rfl

theorem bindingLaw_reset : BindingLaw State.reset := ⟨by simp [LineRec.reset], by simp [State.reset]⟩

theorem freeLineLaw_reset : FreeLineLaw State.reset := by simp [FreeLineLaw, LineRec.reset]

theorem rawLevelLaw_reset : RawLevelLaw State.reset := fun i => by
  rw [line_reset]
  exact ⟨rfl, rfl⟩

theorem lineRangeLaw_reset : LineRangeLaw State.reset := by simp [LineRangeLaw, LineRec.reset]

theorem mirrorLaw_reset : MirrorLaw State.reset := by simp [MirrorLaw, LineRec.reset]

theorem mirrorFollowsLaw_reset : MirrorFollowsLaw State.reset := 
  ⟨by simp [inFlight, State.reset], by simp [LineRec.reset]⟩

theorem arrivalLaw_reset : ArrivalLaw State.reset := fun i => by
  rw [line_reset, input_reset]
  exact ⟨trivial, rfl⟩

theorem startUpLaw_reset : StartUpLaw State.reset := ⟨by simp [State.reset], by simp⟩

theorem eventQueueLaw_reset : EventQueueLaw State.reset := fun h => by
  rw [eventQueue_reset]
  exact ⟨by decide, trivial, by decide, by decide, by decide, by decide⟩

/-- R155, R158, R164, R179: a port engine after device reset is idle with an empty slot, so that its laws ask little of it. -/
theorem portLaw_reset : PortLaw State.reset := fun p => by
  rw [port_reset]
  refine ⟨by simp [PortState.GuardOk, PortState.reset], by simp [PortState.PendingOk, PortState.reset],
    by simp [PortState.TickedOk, PortState.reset], ?_⟩
  simp [PortState.TxnOk, PortState.AckOk, PortState.SdaOk, PortState.reset]

theorem resetLaw_reset : ResetLaw State.reset := fun _ => rfl

/-- Settles O4, law by law and table by table. -/
theorem resetValuesMeetTheLaws : Obligations.ResetValuesMeetTheLaws := by
  refine ⟨leaseTableLaw_reset, disjointLaw_reset, waitQueueLaw_reset, ownLineLaw_reset, reservationLaw_reset,
    noGrantableLaw_reset, bindingLaw_reset, freeLineLaw_reset, rawLevelLaw_reset, lineRangeLaw_reset, mirrorLaw_reset,
    mirrorFollowsLaw_reset, arrivalLaw_reset, startUpLaw_reset, eventQueueLaw_reset, portLaw_reset, resetLaw_reset,
    rfl, rfl, rfl, rfl, rfl, rfl, rfl, rfl, rfl, fun i => ?_, fun h => ?_⟩
  · exact ⟨allowedOn_reset i, input_reset i, line_reset i, fun h => subscription_reset h i⟩
  · rw [port_reset]
    exact ⟨eventQueue_reset h, rfl, rfl, rfl, rfl, rfl, rfl, rfl, rfl, rfl, rfl⟩

end Sys2Proof.Machine
end

section
/-! PROOF. The millisecond tick (R20, R38, R49, R96, R99, R100, R139, R176): the timers count, and then the drive test of every
line, which a line fails once at most. -/

namespace Sys2Proof.Machine

/-! ### The drive test -/

/-- R100: the record of a line after its drive test against filtered level `v`. -/
def LineRec.tested (v : Level) (r : LineRec) : LineRec := { r with mismatch := r.mismatch || (r.contested v).isSome }

/-- R100: the record that the drive test of line `i` raises for host `h`, if it raises one. -/
def State.mismatchFor (s : State) (h : Host) (i : Line) : Option Event :=
  if (s.line i).heldBy h then ((s.line i).contested (s.input i).filtered).map fun d => .mismatch i d else none

/-- R100: a line whose mismatch flag is set is not contested. -/
theorem contested_of_mismatch {r : LineRec} (v : Level) (h : r.mismatch = true) : r.contested v = none := by
  simp [LineRec.contested, h]

theorem contested_tested (v : Level) (r : LineRec) : (r.tested v).contested v = none := by
  cases h : r.contested v with
  | some d => exact contested_of_mismatch v (by simp [LineRec.tested, h])
  | none =>
    have same : r.tested v = r := by simp [LineRec.tested, h]
    rw [same, h]

/-- R100: a second test of a line changes nothing. -/
theorem tested_tested (v : Level) (r : LineRec) : (r.tested v).tested v = r.tested v := by
  rw [LineRec.tested, contested_tested]
  simp

/-- R100: a drive test reaches line records and event queues alone. -/
theorem testLine_frame (s : State) (i : Line) :
    s.testLine i = { s with lines := (s.testLine i).lines, queues := (s.testLine i).queues } := by
  unfold State.testLine State.driveTest
  split
  · cases (s.line i).holder <;> rfl
  · rfl

theorem testLines_frame (xs : List Line) (s : State) :
    xs.foldl State.testLine s = { s with
      lines := (xs.foldl State.testLine s).lines, queues := (xs.foldl State.testLine s).queues } :=
  foldl_rel (rel := fun s t : State => t = { s with lines := t.lines, queues := t.queues }) (fun _ => rfl)
    (fun h k => by rw [h] at k; exact k) testLine_frame xs s

theorem input_testLine (s : State) (i j : Line) : (s.testLine i).input j = s.input j := by
  rw [testLine_frame]
  rfl

theorem line_testLine (s : State) (i j : Line) :
    (s.testLine i).line j = if j = i then (s.line j).tested (s.input j).filtered else s.line j := by
  rw [State.testLine, line_driveTest]
  by_cases h : j = i
  · subst h
    cases k : (s.line j).contested (s.input j).filtered <;> simp [LineRec.tested, k]
  · simp [h]

/-- R100: the records of the lines after drive tests in any order, some lines more than once. -/
theorem line_testLines (xs : List Line) (s : State) (j : Line) :
    (xs.foldl State.testLine s).line j = if j ∈ xs then (s.line j).tested (s.input j).filtered else s.line j := by
  induction xs generalizing s with
  | nil => simp
  | cons x xs ih =>
    rw [List.foldl_cons, ih, line_testLine, input_testLine]
    by_cases h : j = x <;> simp [h, tested_tested]

/-- R100: a drive test tells a host what it finds for it, and nothing else. -/
theorem eventQueue_testLine (s : State) (i : Line) (h : Host) :
    (s.testLine i).eventQueue h =
      (s.mismatchFor h i).toList.foldl (fun q e => EventQueue.arrive s.timestamp e q) (s.eventQueue h) := by
  rw [State.testLine, eventQueue_driveTest, State.mismatchFor]
  cases (s.line i).contested (s.input i).filtered with
  | none => simp
  | some d => by_cases held : (s.line i).holder.map (fun b => b.host) = some h <;> simp [LineRec.heldBy, held]

/-- After its test a line has no record left to raise, and other lines have theirs. -/
theorem mismatchFor_testLine (s : State) (h : Host) (i j : Line) :
    (s.testLine i).mismatchFor h j = if j = i then none else s.mismatchFor h j := by
  unfold State.mismatchFor
  rw [input_testLine, line_testLine]
  by_cases k : j = i
  · simp [k, contested_tested]
  · simp [k]

/-- Of a list with repeats the first entry is kept and its repeats are not. -/
theorem dedup_cons_perm (x : Line) (xs : List Line) :
    (x :: xs).dedup.Perm (x :: xs.dedup.filter fun j => j ≠ x) := by
  have nodup : (x :: xs.dedup.filter fun j => j ≠ x).Nodup :=
    List.nodup_cons.mpr ⟨by simp, (List.nodup_dedup xs).filter _⟩
  rw [List.perm_ext_iff_of_nodup (List.nodup_dedup _) nodup]
  intro j
  simp only [List.mem_dedup, List.mem_cons, List.mem_filter, decide_eq_true_eq]
  tauto

/-- R100, R103: the records that drive tests in any order raise for a host: one for each line that they find contested, however
often they test it. -/
theorem eventQueue_testLines (xs : List Line) (s : State) (h : Host) : ∃ events : List Event,
    (xs.foldl State.testLine s).eventQueue h
        = events.foldl (fun q e => EventQueue.arrive s.timestamp e q) (s.eventQueue h)
      ∧ events.Perm (xs.dedup.filterMap (s.mismatchFor h)) := by
  induction xs generalizing s with
  | nil => exact ⟨[], rfl, .refl _⟩
  | cons x xs ih =>
    obtain ⟨events, queue, perm⟩ := ih (s.testLine x)
    have time : (s.testLine x).timestamp = s.timestamp := by rw [testLine_frame]
    refine ⟨(s.mismatchFor h x).toList ++ events, ?_, ?_⟩
    · rw [List.foldl_cons, queue, eventQueue_testLine, time, List.foldl_append]
    · have others : xs.dedup.filterMap ((s.testLine x).mismatchFor h)
          = (xs.dedup.filter fun j => j ≠ x).filterMap (s.mismatchFor h) := by
        rw [List.filterMap_filter]
        refine List.filterMap_congr fun j _ => ?_
        rw [mismatchFor_testLine]
        by_cases k : j = x <;> simp [k]
      rw [others] at perm
      refine .trans ?_ ((dedup_cons_perm x xs).filterMap _).symm
      cases k : s.mismatchFor h x <;> simpa [k] using perm

/-! ### The timers -/

/-- R62, R63: the counting of its timers has no part in what a line drives. -/
theorem driven_tick (r : LineRec) : r.tick.driven = r.driven := by
  obtain ⟨_, _, _, _, function, _, _, _, _, _⟩ := r
  cases function <;> rfl

/-- R100: what the drive test finds at a line whose timers have counted. -/
theorem contested_tick (r : LineRec) (v : Level) :
    r.tick.contested v = ({ r with settle := r.settle - 1 } : LineRec).contested v := by
  have driven : ({ r with settle := r.settle - 1 } : LineRec).driven = r.driven := rfl
  simp only [LineRec.contested, driven, driven_tick]
  rfl

/-- R176: a running bus timer counts, and a stopped one stands. -/
theorem BusTimer.tick_eq (t : BusTimer) :
    t.tick = { t with remaining := t.remaining - (if t.running then 1 else 0) } := by
  unfold BusTimer.tick
  split <;> rfl

/-- R176: a port with no bus timeout at a millisecond tick. -/
theorem PortState.tick_of_time {q : PortState} (h : q.timedOut = false) : q.tick = { q with timer := q.timer.tick } := by
  rw [PortState.tick, takeTimeout_of_time h]

/-- R176: a port at which a bus timeout has come at a millisecond tick: its timer stands at 0 after it. -/
theorem PortState.tick_of_timedOut {q : PortState} (h : q.timedOut = true) : q.tick = q.takeTimeout := by
  rw [PortState.tick, takeTimeout_of_timedOut h]
  unfold PortState.drop
  split <;> rfl

/-- R176, R177: a bus timeout leaves the slot and what waits in it. -/
theorem takeTimeout_slot (q : PortState) : q.takeTimeout.slot = q.slot ∧ q.takeTimeout.ticked = q.ticked := by
  unfold PortState.takeTimeout PortState.drop
  repeat' split
  all_goals exact ⟨rfl, rfl⟩

/-- R70, R176: a port at a millisecond tick with the tick noted. -/
theorem port_countTick (s : State) (p : Host) :
    (s.countTick.tickWaits .lineMatrix).port p =
      { (s.port p).tick with ticked := (s.port p).ticked || (s.port p).waitsFor .lineMatrix } := by
  have tick : s.countTick.port p = (s.port p).tick := mapTable_getElem PortState.tick s.ports p
  have waits : (s.port p).tick.waitsFor .lineMatrix = (s.port p).waitsFor .lineMatrix := by
    simp only [PortState.waitsFor, PortState.tick, (takeTimeout_slot _).1]
  have ticked : (s.port p).tick.ticked = (s.port p).ticked := (takeTimeout_slot _).2
  rw [port_tickWaits, tick, waits, ticked]

theorem line_countTick (s : State) (i : Line) : (s.countTick.tickWaits .lineMatrix).line i = (s.line i).tick :=
  mapTable_getElem LineRec.tick s.lines i

/-- R99: a tick that no waiting line command puts off. -/
theorem tick_eq {s : State} (h : s.overdue .lineMatrix = false) (order : List Line) :
    s.tick order = (order ++ allLines).foldl State.testLine (s.countTick.tickWaits .lineMatrix) := by
  simp [State.tick, h]

/-- Settles O17: the counting first, and then the drive test of every line, those of `order` first. -/
theorem millisecondTickCountsAndTests : Obligations.MillisecondTickCountsAndTests := by
  intro s order running
  refine ⟨fun overdue => ?_, fun free => ?_⟩
  · simp [exec, execMillisecondTick, takes_running running, State.tick, overdue]
  · refine ⟨s.tick order, takes_running running, ?_⟩
    rw [tick_eq free]
    have frame := testLines_frame (order ++ allLines) (s.countTick.tickWaits .lineMatrix)
    have ports : ∀ p, ((order ++ allLines).foldl State.testLine (s.countTick.tickWaits .lineMatrix)).port p = _ :=
      fun p => (congrArg (fun t : State => t.port p) frame).trans (port_countTick s p)
    refine ⟨?_, ?_, ?_, fun p time => ?_, fun p timedOut => ?_, fun i => ?_, fun h => ?_⟩
    · rw [frame]
      rfl
    · rw [frame]
      rfl
    · rw [frame]
      rfl
    · rw [ports, PortState.tick_of_time time, BusTimer.tick_eq]
    · obtain ⟨u, hu, -, -, port⟩ := portEvent_running p id running
      exact ⟨u, hu, by rw [ports, PortState.tick_of_timedOut timedOut, port, id]⟩
    · rw [line_testLines, if_pos (List.mem_append_right _ (mem_allLines i)), line_countTick, LineRec.tested,
        contested_tick]
      cases k : (s.line i).function <;> simp [LineRec.tick, LineFunction.tick, k] <;> rfl
    · obtain ⟨events, queue, perm⟩ := eventQueue_testLines (order ++ allLines) (s.countTick.tickWaits .lineMatrix) h
      refine ⟨events, ?_, perm.trans ?_⟩
      · have time : ((order ++ allLines).foldl State.testLine (s.countTick.tickWaits .lineMatrix)).timestamp
            = s.timestamp + 1 := by
          rw [frame]
          rfl
        rw [Received, time]
        exact queue
      · have all : (order ++ allLines).dedup.Perm allLines := by
          rw [List.perm_ext_iff_of_nodup (List.nodup_dedup _) allLines_nodup]
          simp [mem_allLines]
        refine (all.filterMap _).trans (.of_eq (List.filterMap_congr fun i _ => ?_))
        rw [State.mismatchFor, line_countTick, contested_tick]
        rfl

end Sys2Proof.Machine
end

section
/-! PROOF. The parking of a line set (R81, R82, R91): what it leaves of the lines, which changes of raw level it hands on, and
which records it raises. The lines are parked first, and then each is presented to its mirrors. -/

namespace Sys2Proof.Machine

/-! ### Changes handed on and records received -/

/-- R66: between the two states the event under way hands on these changes of level, in this order. -/
def HandsOn (cs : List LevelChange) (s t : State) : Prop :=
  ∀ bs b, s.arrivals = bs ++ [b] → t.arrivals = bs ++ [b ++ cs]

theorem HandsOn.of_same {s t : State} (h : t.arrivals = s.arrivals) : HandsOn [] s t := fun bs b k => by simp [h, k]

theorem HandsOn.trans {cs ds : List LevelChange} {s t u : State} (h : HandsOn cs s t) (k : HandsOn ds t u) :
    HandsOn (cs ++ ds) s u := fun bs b e => by
  rw [k bs (b ++ cs) (h bs b e), List.append_assoc]

theorem Received.of_same {h : Host} {s t : State} (k : t.queues = s.queues) : Received h [] s t := by
  simp [Received, State.eventQueue, k]

theorem Received.trans {h : Host} {as bs : List Event} {s t u : State} (k : Received h as s t) (m : Received h bs t u)
    (time : u.timestamp = t.timestamp) : Received h (as ++ bs) s u := by
  unfold Received at *
  rw [m, k, List.foldl_append, time]

theorem LinesOnly.timestamp {s t : State} (h : LinesOnly s t) : t.timestamp = s.timestamp := by
  unfold LinesOnly at h
  rw [h]

theorem LinesOnly.external {s t : State} (h : LinesOnly s t) : t.external = s.external := by
  unfold LinesOnly at h
  rw [h]

/-! ### Changes of raw level -/

theorem rawChanges_append (xs ys : List Line) (s t : State) :
    rawChanges (xs ++ ys) s t = rawChanges xs s t ++ rawChanges ys s t := by
  simp [rawChanges]

theorem rawChanges_self (xs : List Line) (s : State) : rawChanges xs s s = [] := by simp [rawChanges]

theorem rawChanges_flatMap {α : Type} (xs : List α) (f : α → List Line) (s t : State) :
    rawChanges (xs.flatMap f) s t = xs.flatMap fun x => rawChanges (f x) s t := by
  induction xs with
  | nil => rfl
  | cons x xs ih => rw [List.flatMap_cons, rawChanges_append, ih, List.flatMap_cons]

/-- The changes of some lines depend on the raw levels of these lines alone. -/
theorem rawChanges_congr {xs : List Line} {s s' t t' : State} (hs : ∀ i ∈ xs, (s'.line i).raw = (s.line i).raw)
    (ht : ∀ i ∈ xs, (t'.line i).raw = (t.line i).raw) : rawChanges xs s' t' = rawChanges xs s t := by
  unfold rawChanges
  rw [List.filter_congr fun i hi => by rw [hs i hi, ht i hi]]
  exact List.map_congr_left fun i hi => by rw [ht i (List.mem_of_mem_filter hi)]

theorem rawChanges_singleton (i : Line) (s t : State) :
    rawChanges [i] s t = if (t.line i).raw = (s.line i).raw then [] else [⟨i, (t.line i).raw⟩] := by
  by_cases h : (t.line i).raw = (s.line i).raw <;> simp [rawChanges, h]

/-- R66: a write of a record that has the raw level of its line so far hands on the change it makes of that level. -/
theorem handsOn_writeLine {s : State} {i : Line} {r : LineRec} (hr : r.raw = (s.line i).raw) :
    HandsOn (rawChanges [i] s (s.writeLine i r)) s (s.writeLine i r) := by
  intro bs b e
  have raw : ((s.writeLine i r).line i).raw = rawLevel s.external[i] r := by rw [line_writeLine, if_pos rfl]
  rw [arrivals_writeLine, e, rawChanges_singleton, raw, ← hr]
  split
  · rw [List.append_nil]
  · exact handOn_append _ bs b

/-- A write of a line record reaches no event queue. -/
theorem queues_writeLine (s : State) (i : Line) (r : LineRec) : (s.writeLine i r).queues = s.queues := by
  unfold State.writeLine
  dsimp only
  split <;> rfl

/-- R63: the settle and the mismatch flag alone follow a change of driven value. -/
theorem raw_settled (old new : LineRec) : (LineRec.settled old new).raw = new.raw := by
  unfold LineRec.settled
  split <;> rfl

/-- R63, R66: so does driving a line with such a record. -/
theorem handsOn_driveLine {s : State} {i : Line} {r : LineRec} (hr : r.raw = (s.line i).raw) :
    HandsOn (rawChanges [i] s (s.driveLine i r)) s (s.driveLine i r) :=
  handsOn_writeLine ((raw_settled _ _).trans hr)

/-- A fold whose steps each reach a line of their own hands on the changes of these lines, in their order. -/
theorem handsOn_foldl {α : Type} {g : State → α → State} {key : α → Line}
    (others : ∀ u x j, j ≠ key x → (g u x).line j = u.line j)
    (hands : ∀ u x, HandsOn (rawChanges [key x] u (g u x)) u (g u x)) (xs : List α) (nodup : (xs.map key).Nodup)
    (s : State) : HandsOn (rawChanges (xs.map key) s (xs.foldl g s)) s (xs.foldl g s) := by
  have untouched : ∀ (ys : List α) (u : State) (j : Line), j ∉ ys.map key → (ys.foldl g u).line j = u.line j := by
    intro ys
    induction ys with
    | nil => intro u j _; rfl
    | cons y ys ih =>
      intro u j hj
      rw [List.map_cons, List.mem_cons, not_or] at hj
      rw [List.foldl_cons, ih _ j hj.2, others u y j hj.1]
  induction xs generalizing s with
  | nil => exact .of_same rfl
  | cons x xs ih =>
    obtain ⟨fresh, nodup⟩ := List.nodup_cons.mp nodup
    have first : rawChanges [key x] s (xs.foldl g (g s x)) = rawChanges [key x] s (g s x) :=
      rawChanges_congr (fun _ _ => rfl) fun i hi => by
        rw [List.mem_singleton.mp hi, untouched xs (g s x) (key x) fresh]
    have rest : rawChanges (xs.map key) s (xs.foldl g (g s x)) = rawChanges (xs.map key) (g s x) (xs.foldl g (g s x)) :=
      rawChanges_congr (fun i hi => by rw [others s x i (fun e => fresh (e ▸ hi))]) fun _ _ => rfl
    rw [List.foldl_cons, List.map_cons, ← List.singleton_append, rawChanges_append, first, rest]
    exact (hands s x).trans (ih nodup (g s x))

/-! ### Parked lines -/

/-- R81: the record of a line after it is parked with a fallback under external state `x`. -/
def LineRec.parkedUnder (x : External) (f : Fallback) (r : LineRec) : LineRec :=
  { LineRec.after x r (r.parkedTo f) with holder := none, mismatch := false }

theorem line_parkLine_eq (s : State) (e : LineEntry) (j : Line) : (s.parkLine e).line j =
    if j = e.line then (s.line j).parkedUnder s.external[j] e.fallback else s.line j := by
  rw [line_parkLine]
  split
  · rename_i h
    subst h
    rfl
  · rfl

/-- R80, R81: a parked line is PLAIN. -/
theorem function_parkedUnder (x : External) (f : Fallback) (r : LineRec) : (r.parkedUnder x f).function = .plain := by
  cases f <;> rfl

theorem handsOn_parkLine (s : State) (e : LineEntry) :
    HandsOn (rawChanges [e.line] s (s.parkLine e)) s (s.parkLine e) := by
  have raw : (e.fallback.apply (s.line e.line).unfunctioned).raw = (s.line e.line).raw := by cases e.fallback <;> rfl
  exact handsOn_writeLine ((raw_settled _ _).trans raw)

/-- R180: a line set stands in the order of the lines. -/
theorem EntriesOk.lines_eq {es : List LineEntry} (h : EntriesOk es) :
    allLines.filter (coversLine es) = es.map fun e => e.line := by
  have perm : (allLines.filter (coversLine es)).Perm (es.map fun e => e.line) := by
    rw [List.perm_ext_iff_of_nodup (allLines_nodup.filter _) h.nodup]
    simp [mem_allLines, coversLine_iff]
  have sorted : allLines.Pairwise (· < ·) := by decide
  refine perm.eq_of_pairwise (le := (· < ·)) (fun a b _ _ hab hba => absurd hab (lt_asymm hba))
    (sorted.sublist List.filter_sublist) ?_
  rw [List.pairwise_map]
  exact h.2

/-- R82: the records of the lines when those of the entries are parked and no other is touched. -/
theorem line_parkFold {es : List LineEntry} (nodup : (es.map fun e => e.line).Nodup) (s : State) (j : Line) :
    (es.foldl (fun t e => t.parkLine e) s).line j = match es.find? fun e => e.line == j with
      | some e => (s.line j).parkedUnder s.external[j] e.fallback
      | none => s.line j := by
  induction es generalizing s with
  | nil => rfl
  | cons e es ih =>
    obtain ⟨fresh, nodup⟩ := List.nodup_cons.mp nodup
    rw [List.foldl_cons, ih nodup, (parkLine_linesOnly e s).external, line_parkLine_eq]
    by_cases h : j = e.line
    · subst h
      have last : es.find? (fun d => d.line == e.line) = none := by
        rw [List.find?_eq_none]
        exact fun d hd k => fresh (List.mem_map.mpr ⟨d, hd, by simpa using k⟩)
      simp [last]
    · have other : (e.line == j) = false := by simpa using Ne.symm h
      simp [h, other]

/-! ### Presented lines -/

/-- R87, R91: after a fault a mirror follows no source. -/
theorem followsSource_eq {s t : State} {i j : Line} (h : (t.line j).function = (s.line j).function) :
    t.followsSource i j = s.followsSource i j := by
  unfold State.followsSource
  rw [h]

/-- R87: a mirror follows one source alone. -/
theorem followsSource_unique {s : State} {a b m : Line} (ha : s.followsSource a m = true)
    (hb : s.followsSource b m = true) : a = b := by
  unfold State.followsSource at ha hb
  split at ha
  · rename_i src invert e
    rw [e] at hb
    have ha : src = a := by simpa using ha
    have hb : src = b := by simpa using hb
    exact ha.symm.trans hb
  all_goals cases ha

/-- R91: a mirror with its fault set follows nothing. -/
theorem not_follows_of_fault {s t : State} {source source' m : Line} {x : External}
    (h : t.line m = LineRec.after x (s.line m) (s.line m).withFault) (hs : s.followsSource source' m = true) :
    t.followsSource source m = false := by
  unfold State.followsSource at hs ⊢
  rw [h]
  split at hs
  · rename_i src invert e
    simp [LineRec.after, LineRec.withFault, e]
  all_goals cases hs

/-- R103: a record raised hands nothing on. -/
theorem HandsOn.raiseHolder {xs : List Line} {s t : State} (h : HandsOn (rawChanges xs s t) s t) (b : Option Binding)
    (e : Event) : HandsOn (rawChanges xs s (t.raiseHolder b e)) s (t.raiseHolder b e) := by
  cases b <;> exact h

theorem handsOn_faultMirror (source : Line) (s : State) (m : Line) :
    HandsOn (rawChanges [m] s (s.faultMirror source m)) s (s.faultMirror source m) := by
  unfold State.faultMirror
  split
  · split
    · rename_i src invert _ _
      exact (handsOn_driveLine (r := { s.line m with function := .mirror src invert true }) rfl).raiseHolder _ _
    · rw [rawChanges_self]
      exact .of_same rfl
  all_goals
    rw [rawChanges_self]
    exact .of_same rfl

/-- R66, R88, R91: presenting a line hands on the changes of raw level of its mirrors, in ascending line order. -/
theorem handsOn_present (source : Line) (s : State) :
    HandsOn (rawChanges allLines s (s.present source)) s (s.present source) := by
  unfold State.present
  split
  · rw [rawChanges_self]
    exact .of_same rfl
  · have folded := handsOn_foldl (key := id) (fun u m j (h : j ≠ m) => by rw [line_faultMirror]; simp [h])
      (fun u m => handsOn_faultMirror source u m) allLines (by simpa using allLines_nodup) s
    rwa [List.map_id] at folded

/-- R91: a mirror that follows the source presented is driven with its fault set, and its holder is told. -/
theorem faultMirror_of_follows {source m : Line} {s : State} (follows : s.followsSource source m = true) :
    s.faultMirror source m =
      (s.driveLine m (s.line m).withFault).raiseHolder (s.line m).holder (.mirrorFault m source) := by
  cases e : (s.line m).function with
  | mirror src invert fault =>
    cases fault with
    | false =>
      have hs : src = source := by simpa only [State.followsSource, e, beq_iff_eq] using follows
      simp only [State.faultMirror, LineRec.withFault, e, if_pos hs]
    | true => simp only [State.followsSource, e, Bool.false_eq_true] at follows
  | plain => simp only [State.followsSource, e, Bool.false_eq_true] at follows
  | pulse level revert remaining => simp only [State.followsSource, e, Bool.false_eq_true] at follows

/-- R88: a line that does not follow the source presented stands as it did, and so does all else. -/
theorem faultMirror_of_not_follows {source m : Line} {s : State} (follows : s.followsSource source m = false) :
    s.faultMirror source m = s := by
  cases e : (s.line m).function with
  | mirror src invert fault =>
    cases fault with
    | false =>
      have hs : src ≠ source := by simpa only [State.followsSource, e, beq_eq_false_iff_ne] using follows
      simp only [State.faultMirror, e, if_neg hs]
    | true => simp only [State.faultMirror, e]
  | plain => simp only [State.faultMirror, e]
  | pulse level revert remaining => simp only [State.faultMirror, e]

/-- A line driven and its holder told: the holder alone receives the record. -/
theorem received_raiseHolder_driveLine (s : State) (m : Line) (r : LineRec) (b : Option Binding) (e : Event) (h : Host) :
    Received h (if b.map (fun b => b.host) = some h then [e] else []) s ((s.driveLine m r).raiseHolder b e) := by
  have queue : (s.driveLine m r).eventQueue h = s.eventQueue h :=
    congrArg (fun q : Vector EventQueue 4 => q[h]) (queues_writeLine s m _)
  have time : ((s.driveLine m r).raiseHolder b e).timestamp = s.timestamp := by
    cases b <;> exact (driveLine_linesOnly m r s).timestamp
  unfold Received
  rw [eventQueue_raiseHolder, queue, time, (driveLine_linesOnly m r s).timestamp]
  by_cases held : b.map (fun b => b.host) = some h
  · rw [if_pos held, if_pos held, List.foldl_cons, List.foldl_nil]
  · rw [if_neg held, if_neg held, List.foldl_nil]

/-- R91: the MIRROR_FAULT of one mirror. -/
theorem received_faultMirror (source : Line) (s : State) (m : Line) (h : Host) :
    Received h (if s.followsSource source m && (s.line m).heldBy h then [.mirrorFault m source] else []) s
      (s.faultMirror source m) := by
  cases follows : s.followsSource source m with
  | false =>
    rw [faultMirror_of_not_follows follows, Bool.false_and, if_neg Bool.false_ne_true]
    exact .of_same rfl
  | true =>
    rw [faultMirror_of_follows follows, Bool.true_and]
    simpa only [LineRec.heldBy, beq_iff_eq] using received_raiseHolder_driveLine s m _ (s.line m).holder _ h

/-- R91: after a mirror faults, another line follows its source and has its holder as before. -/
theorem faultMirror_others (source : Line) (s : State) {m j : Line} (h : j ≠ m) :
    (s.faultMirror source m).line j = s.line j := by
  rw [line_faultMirror]
  simp [h]

/-- R88, R91: presenting a line that is OUT tells the holders of its mirrors, in ascending line order. -/
theorem received_present (source : Line) (s : State) (h : Host) :
    Received h (if (s.line source).direction = .output then mirrorFaults s source (fun _ => false) h else []) s
      (s.present source) := by
  have folded : ∀ (xs : List Line), xs.Nodup → ∀ u : State,
      Received h ((xs.filter fun m => u.followsSource source m && (u.line m).heldBy h).map fun m => .mirrorFault m source)
        u (xs.foldl (fun t m => t.faultMirror source m) u) := by
    intro xs
    induction xs with
    | nil => exact fun _ u => .of_same rfl
    | cons x xs ih =>
      intro nodup u
      obtain ⟨fresh, nodup⟩ := List.nodup_cons.mp nodup
      have others : (xs.filter fun m => (u.faultMirror source x).followsSource source m
            && ((u.faultMirror source x).line m).heldBy h)
          = xs.filter fun m => u.followsSource source m && (u.line m).heldBy h :=
        List.filter_congr fun m hm => by
          have line := faultMirror_others source u (m := x) (j := m) (fun e => fresh (e ▸ hm))
          rw [followsSource_eq (congrArg LineRec.function line), line]
      have rest := ih nodup (u.faultMirror source x)
      rw [others] at rest
      have both := (received_faultMirror source u x h).trans rest
        (LinesOnly.foldl (fun t m => faultMirror_linesOnly source m t) xs _).timestamp
      rw [List.filter_cons]
      cases told : u.followsSource source x && (u.line x).heldBy h
      all_goals
        rw [told] at both
        exact both
  cases e : (s.line source).direction with
  | input =>
    have kept : s.present source = s := by simp only [State.present, e]
    rw [kept, if_neg (by simp)]
    exact .of_same rfl
  | output =>
    have presented : s.present source = allLines.foldl (fun t m => t.faultMirror source m) s := by
      simp only [State.present, e]
    rw [presented, if_pos rfl]
    simpa [mirrorFaults] using folded allLines allLines_nodup s

/-! ### The parking of a line set -/

/-- R81, R82, R91: the record of line `i` once the entries are parked and the lines `presented` are presented to their
mirrors. -/
def State.presentedLine (s : State) (entries : List LineEntry) (presented : List Line) (i : Line) : LineRec :=
  match entries.find? fun e => e.line == i with
  | some e => (s.line i).parkedUnder s.external[i] e.fallback
  | none =>
    if presented.any fun source => s.parksOut entries source && s.followsSource source i then
      LineRec.after s.external[i] (s.line i) (s.line i).withFault
    else s.line i

section

variable {s : State} {entries : List LineEntry}

theorem find?_entry (nodup : (entries.map fun e => e.line).Nodup) {e : LineEntry} (he : e ∈ entries) :
    (entries.find? fun d => d.line == e.line) = some e := by
  induction entries with
  | nil => cases he
  | cons d ds ih =>
    obtain ⟨fresh, nodup⟩ := List.nodup_cons.mp nodup
    rcases List.mem_cons.mp he with rfl | he
    · simp
    · have other : (d.line == e.line) = false := by
        simpa using fun k => fresh (List.mem_map.mpr ⟨e, he, k.symm⟩)
      rw [List.find?_cons, other]
      exact ih nodup he

theorem find?_uncovered {i : Line} (h : coversLine entries i = false) : (entries.find? fun e => e.line == i) = none := by
  rw [List.find?_eq_none]
  intro e he k
  rw [coversLine, List.any_eq_false] at h
  exact h e he k

/-- R82: a line of the entries has its parked record, whatever is presented. -/
theorem presentedLine_entry (nodup : (entries.map fun e => e.line).Nodup) {e : LineEntry} (he : e ∈ entries)
    (presented : List Line) :
    s.presentedLine entries presented e.line = (s.line e.line).parkedUnder s.external[e.line] e.fallback := by
  rw [State.presentedLine, find?_entry nodup he]

/-- R82, R91: another line faults with the presentation of a line that is parked OUT and that it follows. -/
theorem presentedLine_other {i : Line} (h : coversLine entries i = false) (presented : List Line) :
    s.presentedLine entries presented i =
      if presented.any fun source => s.parksOut entries source && s.followsSource source i then
        LineRec.after s.external[i] (s.line i) (s.line i).withFault
      else s.line i := by
  rw [State.presentedLine, find?_uncovered h]

/-- R87, R91: it does so with the presentation of its one source. -/
theorem presentedLine_follower {i source : Line} (h : coversLine entries i = false)
    (follows : s.followsSource source i = true) {presented : List Line} (hp : source ∈ presented) :
    s.presentedLine entries presented i =
      if s.parksOut entries source then LineRec.after s.external[i] (s.line i) (s.line i).withFault else s.line i := by
  rw [presentedLine_other h]
  have one : (presented.any fun source => s.parksOut entries source && s.followsSource source i)
      = s.parksOut entries source := by
    rw [Bool.eq_iff_iff, List.any_eq_true]
    constructor
    · rintro ⟨other, -, k⟩
      rw [Bool.and_eq_true] at k
      rw [followsSource_unique follows k.2]
      exact k.1
    · exact fun k => ⟨source, hp, by simp [k, follows]⟩
  rw [one]

/-- R82: the model parks the entries, and the statement's parking is the presentation of every line. -/
theorem line_afterParking (i : Line) : (s.afterParking entries).line i = s.presentedLine entries allLines i := by
  refine (Vector.getElem_ofFn (i := i.val) i.isLt).trans ?_
  rfl

/-- R80, R82: a line of the entries is presented as OUT exactly where it is parked OUT. -/
theorem parksOut_entry (nodup : (entries.map fun e => e.line).Nodup) {e : LineEntry} (he : e ∈ entries) :
    s.parksOut entries e.line = true ↔ ((s.line e.line).parkedTo e.fallback).direction = .output := by
  simp only [State.parksOut, List.any_eq_true, Bool.and_eq_true, beq_iff_eq]
  constructor
  · rintro ⟨d, hd, line, out⟩
    have same : d = e := by
      have found := find?_entry nodup hd
      rw [line, find?_entry nodup he] at found
      exact (Option.some.inj found).symm
    rwa [same] at out
  · exact fun out => ⟨e, he, rfl, out⟩

end

section

variable {s : State} {entries : List LineEntry}

theorem covers_of_parksOut {source : Line} (h : s.parksOut entries source = true) : coversLine entries source = true := by
  obtain ⟨e, he, k⟩ := List.any_eq_true.mp h
  simp only [Bool.and_eq_true, beq_iff_eq] at k
  exact coversLine_iff.mpr ⟨e, he, k.1⟩

/-- R82: the lines parked OUT are lines of the entries, in their order. -/
theorem EntriesOk.parksOut_eq (ok : EntriesOk entries) :
    allLines.filter (s.parksOut entries) = (entries.map fun e => e.line).filter (s.parksOut entries) := by
  rw [← ok.lines_eq, List.filter_filter]
  refine List.filter_congr fun i _ => ?_
  cases out : s.parksOut entries i with
  | true => rw [covers_of_parksOut out]; rfl
  | false => rfl

/-- R82, R91: to present the lines of the entries is to present every line that is parked OUT. -/
theorem parksOut_any (i : Line) :
    ((entries.map fun e => e.line).any fun source => s.parksOut entries source && s.followsSource source i)
      = allLines.any fun source => s.parksOut entries source && s.followsSource source i := by
  rw [Bool.eq_iff_iff, List.any_eq_true, List.any_eq_true]
  constructor
  · rintro ⟨source, -, k⟩
    exact ⟨source, mem_allLines source, k⟩
  · rintro ⟨source, -, k⟩
    obtain ⟨e, he, line⟩ := coversLine_iff.mp (covers_of_parksOut (Bool.and_eq_true_iff.mp k).1)
    exact ⟨source, List.mem_map.mpr ⟨e, he, line⟩, k⟩

end

/-- R82: the entries of a lease end are parked and the lines `presented` of them presented, from state `s` on. -/
structure ParkedUpTo (s : State) (entries : List LineEntry) (presented : List Line) (u : State) : Prop where
  external : u.external = s.external
  line : ∀ i, u.line i = s.presentedLine entries presented i

section

variable {s u : State} {entries : List LineEntry} {presented : List Line}

/-- R91: the mirrors that still follow a line not yet presented: those outside the entries that followed it before. -/
theorem ParkedUpTo.follows (nodup : (entries.map fun e => e.line).Nodup) (h : ParkedUpTo s entries presented u)
    {source : Line} (fresh : source ∉ presented) (m : Line) :
    u.followsSource source m = (s.followsSource source m && !coversLine entries m) := by
  cases covered : coversLine entries m with
  | true =>
    obtain ⟨e, he, rfl⟩ := coversLine_iff.mp covered
    have plain : (u.line e.line).function = .plain := by
      rw [h.line, presentedLine_entry nodup he, function_parkedUnder]
    simp [State.followsSource, plain]
  | false =>
    have line := h.line m
    rw [presentedLine_other covered] at line
    simp only [Bool.not_false, Bool.and_true]
    split at line
    · rename_i faulted
      obtain ⟨other, hp, k⟩ := List.any_eq_true.mp faulted
      rw [Bool.and_eq_true] at k
      rw [not_follows_of_fault line k.2]
      by_contra follows
      exact fresh (followsSource_unique k.2 (Bool.eq_true_of_not_eq_false (Ne.symm follows)) ▸ hp)
    · exact followsSource_eq (congrArg LineRec.function line)

/-- R91: such a mirror stands as it did before the lease end. -/
theorem ParkedUpTo.line_follower (h : ParkedUpTo s entries presented u) {source m : Line} (fresh : source ∉ presented)
    (follows : s.followsSource source m = true) (outside : coversLine entries m = false) : u.line m = s.line m := by
  rw [h.line, presentedLine_other outside, if_neg]
  intro faulted
  obtain ⟨other, hp, k⟩ := List.any_eq_true.mp faulted
  rw [Bool.and_eq_true] at k
  exact fresh (followsSource_unique k.2 follows ▸ hp)

/-- R82, R88: the next line of the entries is presented. -/
theorem ParkedUpTo.present (nodup : (entries.map fun e => e.line).Nodup) (h : ParkedUpTo s entries presented u)
    {e : LineEntry} (he : e ∈ entries) (fresh : e.line ∉ presented) :
    ParkedUpTo s entries (presented ++ [e.line]) (u.present e.line) where
  external := (present_linesOnly e.line u).external.trans h.external
  line j := by
    have out : (u.line e.line).direction = .output ↔ s.parksOut entries e.line = true := by
      rw [h.line, presentedLine_entry nodup he, parksOut_entry nodup he]
      rfl
    rw [line_present, h.external, h.follows nodup fresh]
    simp only [out]
    by_cases follower : s.followsSource e.line j = true ∧ coversLine entries j = false
    · obtain ⟨follows, outside⟩ := follower
      rw [h.line_follower fresh follows outside, presentedLine_follower outside follows (by simp)]
      simp [follows, outside]
    · have stands : (s.followsSource e.line j && !coversLine entries j) = false := by simpa using follower
      rw [stands, if_neg (by simp), h.line]
      cases covered : coversLine entries j with
      | true =>
        obtain ⟨d, hd, rfl⟩ := coversLine_iff.mp covered
        rw [presentedLine_entry nodup hd, presentedLine_entry nodup hd]
      | false =>
        have stands : s.followsSource e.line j = false := by simpa [covered] using stands
        rw [presentedLine_other covered, presentedLine_other covered]
        simp [stands]

/-- R66, R91: the changes of raw level that the presentation of the next line hands on. -/
theorem ParkedUpTo.changes (nodup : (entries.map fun e => e.line).Nodup) (h : ParkedUpTo s entries presented u)
    {e : LineEntry} (he : e ∈ entries) (fresh : e.line ∉ presented) :
    rawChanges allLines u (u.present e.line) =
      rawChanges (allLines.filter fun m => s.followsSource e.line m && !coversLine entries m) s
        (s.afterParking entries) := by
  have touched : rawChanges allLines u (u.present e.line)
      = rawChanges (allLines.filter (u.followsSource e.line)) u (u.present e.line) := by
    unfold rawChanges
    rw [List.filter_filter]
    congr 1
    refine List.filter_congr fun m _ => ?_
    cases follows : u.followsSource e.line m
    · simp [line_present, follows]
    · simp
  rw [touched, List.filter_congr fun m _ => h.follows nodup fresh m]
  refine rawChanges_congr (fun m hm => ?_) fun m hm => ?_
  all_goals
    obtain ⟨-, k⟩ := List.mem_filter.mp hm
    rw [Bool.and_eq_true, Bool.not_eq_true'] at k
    obtain ⟨follows, outside⟩ := k
  · rw [h.line_follower fresh follows outside]
  · rw [(h.present nodup he fresh).line, line_afterParking, presentedLine_follower outside follows (by simp),
      presentedLine_follower outside follows (mem_allLines e.line)]

/-- R91: the MIRROR_FAULT records that the presentation of the next line raises. -/
theorem ParkedUpTo.records (nodup : (entries.map fun e => e.line).Nodup) (h : ParkedUpTo s entries presented u)
    {e : LineEntry} (he : e ∈ entries) (fresh : e.line ∉ presented) (k : Host) :
    Received k (if s.parksOut entries e.line then mirrorFaults s e.line (coversLine entries) k else []) u
      (u.present e.line) := by
  have out : (u.line e.line).direction = .output ↔ s.parksOut entries e.line = true := by
    rw [h.line, presentedLine_entry nodup he, parksOut_entry nodup he]
    rfl
  have faults : mirrorFaults u e.line (fun _ => false) k = mirrorFaults s e.line (coversLine entries) k := by
    unfold mirrorFaults
    congr 1
    refine List.filter_congr fun m _ => ?_
    rw [h.follows nodup fresh]
    by_cases follower : s.followsSource e.line m = true ∧ coversLine entries m = false
    · rw [h.line_follower fresh follower.1 follower.2]
      simp [follower]
    · have stands : (s.followsSource e.line m && !coversLine entries m) = false := by simpa using follower
      rw [stands, Bool.and_right_comm (s.followsSource e.line m), stands]
      rfl
  have received := received_present e.line u k
  rw [faults] at received
  simpa only [out] using received

/-- R82: the lines of the entries presented one after another. -/
theorem ParkedUpTo.presentAll (nodup : (entries.map fun e => e.line).Nodup) (rest : List LineEntry) :
    ∀ (presented : List Line) (u : State), ParkedUpTo s entries presented u →
      (entries.map fun e => e.line) = presented ++ rest.map (fun e => e.line) → (∀ e ∈ rest, e ∈ entries) →
      ParkedUpTo s entries (entries.map fun e => e.line) (rest.foldl (fun t e => t.present e.line) u)
        ∧ HandsOn (rest.flatMap fun e =>
            rawChanges (allLines.filter fun m => s.followsSource e.line m && !coversLine entries m) s
              (s.afterParking entries)) u (rest.foldl (fun t e => t.present e.line) u)
        ∧ ∀ k, Received k (rest.flatMap fun e =>
            if s.parksOut entries e.line then mirrorFaults s e.line (coversLine entries) k else []) u
              (rest.foldl (fun t e => t.present e.line) u) := by
  induction rest with
  | nil =>
    intro presented u h all _
    rw [List.map_nil, List.append_nil] at all
    exact ⟨all ▸ h, .of_same rfl, fun k => .of_same rfl⟩
  | cons e rest ih =>
    intro presented u h all sub
    have he : e ∈ entries := sub e (by simp)
    have fresh : e.line ∉ presented := by
      rw [all] at nodup
      intro k
      exact (List.nodup_append.mp nodup).2.2 _ k _ (by simp) rfl
    obtain ⟨last, hands, received⟩ := ih (presented ++ [e.line]) (u.present e.line) (h.present nodup he fresh)
      (by simp [all]) fun d hd => sub d (by simp [hd])
    refine ⟨last, ?_, fun k => ?_⟩
    · rw [List.flatMap_cons, ← h.changes nodup he fresh]
      exact (handsOn_present e.line u).trans hands
    · exact (h.records nodup he fresh k).trans (received k)
        (LinesOnly.foldl (fun t (d : LineEntry) => present_linesOnly d.line t) rest _).timestamp

end

/-- A choice among the entries of a list made before or after each is taken for its own list. -/
theorem flatMap_filter {α β : Type} (p : α → Bool) (f : α → List β) (xs : List α) :
    (xs.filter p).flatMap f = xs.flatMap fun x => if p x then f x else [] := by
  induction xs with
  | nil => rfl
  | cons x xs ih => cases h : p x <;> simp [h, ih]

/-- R81, R82, R91: all that the parking of a line set does. -/
theorem parkLines_spec {entries : List LineEntry} (ok : EntriesOk entries) (s : State) :
    (∀ i, (s.parkLines entries).line i = (s.afterParking entries).line i)
      ∧ HandsOn (parkingChanges s entries) s (s.parkLines entries)
      ∧ ∀ h, Received h (parkingFaults s entries h) s (s.parkLines entries) := by
  have nodup := ok.nodup
  have parked : ParkedUpTo s entries [] (entries.foldl (fun t e => t.parkLine e) s) :=
    ⟨(LinesOnly.foldl (fun t e => parkLine_linesOnly e t) entries s).external, fun i => by
      rw [line_parkFold nodup, State.presentedLine]
      simp only [List.any_nil, Bool.false_eq_true, if_false]⟩
  obtain ⟨last, hands, received⟩ := parked.presentAll nodup entries _ _ rfl fun _ he => he
  have lines : ∀ i, (s.parkLines entries).line i = (s.afterParking entries).line i := by
    intro i
    rw [line_afterParking]
    refine (last.line i).trans ?_
    cases covered : coversLine entries i with
    | true =>
      obtain ⟨e, he, rfl⟩ := coversLine_iff.mp covered
      rw [presentedLine_entry nodup he, presentedLine_entry nodup he]
    | false =>
      rw [presentedLine_other covered, presentedLine_other covered]
      rw [parksOut_any]
  refine ⟨lines, ?_, fun h => ?_⟩
  · have parkings := handsOn_foldl (key := fun e : LineEntry => e.line)
      (fun u e j hj => by rw [line_parkLine_eq, if_neg hj]) handsOn_parkLine entries nodup s
    have settled : rawChanges (entries.map fun e => e.line) s (entries.foldl (fun t e => t.parkLine e) s)
        = rawChanges (entries.map fun e => e.line) s (s.afterParking entries) := by
      refine rawChanges_congr (fun _ _ => rfl) fun i hi => ?_
      obtain ⟨e, he, rfl⟩ := List.mem_map.mp hi
      rw [parked.line, line_afterParking, presentedLine_entry nodup he, presentedLine_entry nodup he]
    rw [settled] at parkings
    rw [parkingChanges, rawChanges_append, rawChanges_flatMap, ok.lines_eq, List.flatMap_map]
    exact parkings.trans hands
  · have quiet : Received h [] s (entries.foldl (fun t e => t.parkLine e) s) :=
      .of_same (foldl_rel (rel := fun s t : State => t.queues = s.queues) (fun _ => rfl) (fun k m => m.trans k)
        (fun t e => queues_writeLine t _ _) entries s)
    rw [parkingFaults, ok.parksOut_eq, flatMap_filter, List.flatMap_map]
    exact quiet.trans (received h)
      (LinesOnly.foldl (fun t (e : LineEntry) => present_linesOnly e.line t) entries _).timestamp

end Sys2Proof.Machine
end

section
/-! PROOF. The ends of a lease (R16 to R19, R23, R107): the lease-end procedure with the scan that closes it, as one event. -/

namespace Sys2Proof.Machine

/-! ### What the parking of a line set looks at -/

section

variable {s t : State}

/-- R81, R82: what a parking does to the lines depends on the lines and the board alone. -/
theorem afterParking_congr (lines : t.lines = s.lines) (external : t.external = s.external) (entries : List LineEntry) :
    (t.afterParking entries).lines = (s.afterParking entries).lines
      ∧ parkingChanges t entries = parkingChanges s entries
      ∧ ∀ h, parkingFaults t entries h = parkingFaults s entries h := by
  cases s
  cases t
  cases lines
  cases external
  exact ⟨rfl, rfl, fun _ => rfl⟩

theorem line_congr (lines : t.lines = s.lines) (i : Line) : t.line i = s.line i := by simp [State.line, lines]

/-- R36: which claims a scan could grant depends on the tables alone. -/
theorem NoGrantableLaw.congr (h : t.tables = s.tables) (law : NoGrantableLaw s) : NoGrantableLaw t := by
  simp only [State.tables, Tables.mk.injEq] at h
  obtain ⟨leases, -, queue, -⟩ := h
  unfold NoGrantableLaw at *
  rw [noneGrantable_iff] at *
  simpa only [State.scanGrants, State.allFree, State.lineHeld, State.hasEntry, leases, queue] using law

/-- R33 to R36: what a scan leaves depends on the tables alone. -/
theorem Scanned.congr {kept : List Lease} {waiting : List Claim} {grants : Grants} {s' t' : State}
    (h : Scanned kept waiting grants s t) (hs : s'.leaseCounter = s.leaseCounter) (ht : t'.tables = t.tables) :
    Scanned kept waiting grants s' t' := by
  have tables := ht
  simp only [State.tables, Tables.mk.injEq] at ht
  obtain ⟨leases, counter, queue, -⟩ := ht
  obtain ⟨pass, perm, ids, last, law⟩ := h
  unfold Scanned
  rw [leases, counter, queue, hs]
  exact ⟨pass, perm, ids, last, law.congr tables⟩

end

/-! ### The lease-end procedure -/

/-- R17, steps 1 and 2: the records of a lease end before its lines are parked. -/
theorem received_notices (l : Lease) (cause : EndCause) (s : State) (h : Host) :
    Received h ((if l.offer.map (fun o => o.target) = some h then [.offerWithdrawn l.id cause.targetReason] else [])
      ++ (if l.holder = h then (cause.holderReason.map fun r => Event.leaseLost l.id r).toList else [])) s
      ((s.withdrawOffer l cause).noticeLoss l cause) := by
  have raised : ∀ (t : State) (k : Host) (e : Event), Received h (if k = h then [e] else []) t (t.raise k e) := by
    intro t k e
    unfold Received
    rw [State.eventQueue_raise]
    by_cases same : h = k
    · subst same
      simp
    · simp [same, Ne.symm same]
  have withdrawn : Received h
      (if l.offer.map (fun o => o.target) = some h then [.offerWithdrawn l.id cause.targetReason] else []) s
      (s.withdrawOffer l cause) := by
    unfold State.withdrawOffer
    cases l.offer with
    | none => exact .of_same rfl
    | some o => simpa using raised s o.target _
  refine withdrawn.trans ?_ (noticeLoss_recordsOnly l cause _).linesOnly.timestamp
  unfold State.noticeLoss
  cases cause.holderReason with
  | none => simpa using Received.of_same rfl
  | some r => simpa using raised _ l.holder _

/-- R17, R18, R81, R82, R91: a lease end up to the scan. -/
theorem endLease_spec {l : Lease} (ok : EntriesOk l.entries) (cause : EndCause) (s : State) :
    (∀ i, (s.endLease l cause).line i = (s.afterParking l.entries).line i)
      ∧ HandsOn (parkingChanges s l.entries) s (s.endLease l cause)
      ∧ ∀ h, Received h ((if l.offer.map (fun o => o.target) = some h
            then [.offerWithdrawn l.id cause.targetReason] else [])
          ++ (if l.holder = h then (cause.holderReason.map fun r => Event.leaseLost l.id r).toList else [])
          ++ parkingFaults s l.entries h) s (s.endLease l cause) := by
  have frame := (withdrawOffer_recordsOnly l cause s).trans (noticeLoss_recordsOnly l cause _)
  have lines : ((s.withdrawOffer l cause).noticeLoss l cause).lines = s.lines := by rw [frame]
  have arrivals : ((s.withdrawOffer l cause).noticeLoss l cause).arrivals = s.arrivals := by rw [frame]
  obtain ⟨parking, changes, faults⟩ := afterParking_congr lines frame.linesOnly.external l.entries
  obtain ⟨parked, hands, received⟩ := parkLines_spec ok ((s.withdrawOffer l cause).noticeLoss l cause)
  refine ⟨fun i => (parked i).trans (line_congr parking i), ?_, fun h => ?_⟩
  · rw [← changes]
    exact fun bs b e => hands bs b (arrivals.trans e)
  · rw [← faults]
    exact (received_notices l cause s h).trans (received h) (parkLines_linesOnly l.entries _).timestamp

/-- R34: the scan hands on no change of level. -/
theorem scan_arrivals (s : State) : s.scan.arrivals = s.arrivals := by
  have kept : ∀ (claims older : List Claim) (t : State), (State.scanFrom older claims t).arrivals = t.arrivals := by
    intro claims
    induction claims with
    | nil => exact fun _ _ => rfl
    | cons c rest ih =>
      intro older t
      unfold State.scanFrom
      split
      · rw [ih, State.scanGrant, State.raise_arrivals, grant_frame]
      · rw [ih]
  exact kept s.queue [] s

/-- R17, R19: a lease end with its scan, in the words of `LeaseEnded` up to the arrivals, which join the event's list. -/
theorem endLeaseAndScan_spec {l : Lease} (ok : EntriesOk l.entries) (cause : EndCause) (s : State) :
    ∃ grants, Scanned (s.leases.filter fun m => m.id != l.id) s.queue grants s (s.endLeaseAndScan l cause)
      ∧ (∀ i, (s.endLeaseAndScan l cause).line i = { (s.afterParking l.entries).line i with
          holder := holderAfter grants i ((s.afterParking l.entries).line i).holder })
      ∧ HandsOn (parkingChanges s l.entries) s (s.endLeaseAndScan l cause)
      ∧ ∀ h, ReceivedThenGrants h ((if l.offer.map (fun o => o.target) = some h
            then [.offerWithdrawn l.id cause.targetReason] else [])
          ++ (if l.holder = h then (cause.holderReason.map fun r => Event.leaseLost l.id r).toList else [])
          ++ parkingFaults s l.entries h) grants s (s.endLeaseAndScan l cause) := by
  obtain ⟨parked, hands, received⟩ := endLease_spec ok cause s
  obtain ⟨grants, scanned, bound, granted⟩ := scan_spec (s.endLease l cause)
  rw [endLease_leases, endLease_queue] at scanned
  have frame := endLease_controllerOnly l cause s
  have counter : s.leaseCounter = (s.endLease l cause).leaseCounter := by
    have := (((withdrawOffer_recordsOnly l cause s).trans (noticeLoss_recordsOnly l cause _)).linesOnly.trans
      (parkLines_linesOnly l.entries _)).tables
    exact (congrArg Tables.leaseCounter this).symm
  have time : (s.endLease l cause).scan.timestamp = (s.endLease l cause).timestamp := by
    have := scan_controllerOnly (s.endLease l cause)
    unfold ControllerOnly at this
    rw [this]
  refine ⟨grants, scanned.congr counter rfl, fun i => ?_, fun bs b e => ?_, fun h => ?_⟩
  · exact (bound i).trans (by rw [parked i])
  · exact (scan_arrivals _).trans (hands bs b e)
  · exact (received h).trans (granted h) time

/-! ### One event -/

/-- R140: what a host received shows in the event queues and the time alone. -/
theorem Received.congr {h : Host} {events : List Event} {s s' t t' : State} (k : Received h events s t)
    (hs : s'.queues = s.queues) (ht : t'.queues = t.queues) (time : t'.timestamp = t.timestamp) :
    Received h events s' t' := by
  unfold Received State.eventQueue at *
  rwa [hs, ht, time]

/-- R17, R66: a lease end as one event, which may serve a port and answer it besides. -/
theorem leaseEnded_event {f : State → State} {l : Lease} {cause : EndCause} {s u t : State} (ok : EntriesOk l.entries)
    (hu : u = { s with arrivals := s.arrivals ++ [[]], reports := s.reports ++ [[]], lastServed := u.lastServed })
    (ht : t = { u.endLeaseAndScan l cause with ports := t.ports })
    (hf : f { s with arrivals := s.arrivals ++ [[]], reports := s.reports ++ [[]] } = t) :
    State.asOneEvent f s = { s with
        leases := (State.asOneEvent f s).leases, leaseCounter := (State.asOneEvent f s).leaseCounter
        queue := (State.asOneEvent f s).queue, lines := (State.asOneEvent f s).lines
        queues := (State.asOneEvent f s).queues, arrivals := (State.asOneEvent f s).arrivals
        ports := t.ports, lastServed := u.lastServed }
      ∧ LeaseEnded l cause s (State.asOneEvent f s) := by
  obtain ⟨grants, scanned, lines, hands, received⟩ := endLeaseAndScan_spec ok cause u
  obtain ⟨parking, changes, faults⟩ := afterParking_congr (s := s) (t := u) (by rw [hu]) (by rw [hu]) l.entries
  have frame := endLeaseAndScan_controllerOnly l cause u
  unfold ControllerOnly at frame
  have arrivals : t.arrivals = s.arrivals ++ [parkingChanges s l.entries] := by
    have joined := hands s.arrivals [] (by rw [hu])
    rw [changes, List.nil_append] at joined
    rw [ht]
    exact joined
  have reports : t.reports = s.reports ++ [[]] := by
    rw [ht, frame, hu]
  have whole : t = { s with
      leases := t.leases, leaseCounter := t.leaseCounter, queue := t.queue, lines := t.lines, queues := t.queues
      arrivals := t.arrivals, reports := t.reports, ports := t.ports, lastServed := u.lastServed } := by
    rw [ht, frame, hu]
  rw [asOneEvent_of hf arrivals reports]
  refine ⟨?_, grants, ?_, fun i => ?_, rfl, fun h => ?_⟩
  · conv_lhs => rw [whole]
    simp
  · have leases : u.leases = s.leases := by rw [hu]
    have queue : u.queue = s.queue := by rw [hu]
    rw [leases, queue] at scanned
    exact scanned.congr (by rw [hu]) (by rw [ht]; rfl)
  · have line : t.line i = (u.endLeaseAndScan l cause).line i := by
      rw [ht]
      rfl
    have lines := lines i
    rw [line_congr parking i] at lines
    exact line.trans lines
  · have := received h
    rw [faults] at this
    exact Received.congr this (by rw [hu]) (by rw [ht]) (by rw [ht])

/-- R16, R107: a row of the lease controller that ends a lease as one event, and answers its port OK. -/
theorem exec_leaseEnd {i : Instr} {s : State} {p : Host} {cmd : Cmd} {tag : Byte} {l : Lease} {cause : EndCause}
    {body : List Byte → State → State × Reply}
    (meaning : ∀ s, exec i s = s.takes (State.asOneEvent (State.leaseControllerTakes p cmd body)))
    (served : Served s p cmd tag) (ok : EntriesOk l.entries)
    (hb : ∀ as rs, body (s.port p).params (s.servedAt p as rs)
      = ((s.servedAt p as rs).endLeaseAndScan l cause, Reply.ok)) :
    ∃ t, exec i s = .next t
      ∧ t = { s with
          leases := t.leases, leaseCounter := t.leaseCounter, queue := t.queue, lines := t.lines, queues := t.queues
          arrivals := t.arrivals, ports := t.ports, lastServed := p }
      ∧ LeaseEnded l cause s t ∧ Answered p tag cmd .ok [] s t := by
  let u := s.servedAt p (s.arrivals ++ [[]]) (s.reports ++ [[]])
  let t := (u.endLeaseAndScan l cause).updatePort p (PortState.placeResult tag cmd Reply.ok)
  have taken : State.leaseControllerTakes p cmd body
      { s with arrivals := s.arrivals ++ [[]], reports := s.reports ++ [[]] } = t := by
    have start : Served { s with arrivals := s.arrivals ++ [[]], reports := s.reports ++ [[]] } p cmd tag := served
    have run := hb (s.arrivals ++ [[]]) (s.reports ++ [[]])
    rw [leaseControllerTakes_served start]
    exact congrArg (fun r : State × Reply => r.1.updatePort p (PortState.placeResult tag cmd r.2)) run
  obtain ⟨frame, ended⟩ := leaseEnded_event (u := u) (t := t) ok rfl rfl taken
  have ports : (State.asOneEvent (State.leaseControllerTakes p cmd body) s).ports = t.ports := by rw [frame]
  refine ⟨_, by rw [meaning, takes_running served.1.1], ?_, ended, ?_⟩
  · rw [ports]
    exact frame
  · have kept : (u.endLeaseAndScan l cause).ports = s.ports := (endLeaseAndScan_controllerOnly l cause u).ports
    exact (answered_placeResult (r := Reply.ok) kept).of_ports ports

/-- R23: a due expiry ends its lease as one event. -/
theorem exec_renewExpiry {s : State} {l : Lease} (running : s.inReset = false) (law : LeaseTableLaw s) (hl : l ∈ s.leases)
    (due : l.remaining = some 0) :
    ∃ t, exec (.renewExpiry l.id) s = .next t
      ∧ t = { s with
          leases := t.leases, leaseCounter := t.leaseCounter, queue := t.queue, lines := t.lines, queues := t.queues
          arrivals := t.arrivals }
      ∧ LeaseEnded l .expiry s t := by
  have expiry : s.dueExpiry l.id = some l := by simp [State.dueExpiry, findLease_of_mem law.sorted hl, due]
  let u : State := { s with arrivals := s.arrivals ++ [[]], reports := s.reports ++ [[]] }
  obtain ⟨frame, ended⟩ := leaseEnded_event (f := State.endLeaseAndScan l .expiry) (u := u)
    (law.fields hl).lines rfl rfl rfl
  have ports : (u.endLeaseAndScan l .expiry).ports = s.ports := (endLeaseAndScan_controllerOnly l .expiry u).ports
  rw [ports] at frame
  refine ⟨_, ?_, frame, ended⟩
  simp only [exec, execRenewExpiry, takes_running running, expiry]

/-- R106: the supervisor port is the supervisor's. -/
theorem isSupervisor_of {s : State} {p : Host} (h : s.supervisor = some p) : s.isSupervisor p = true := by
  simp [State.isSupervisor, h]

/-- Settles O26: each of the three rows ends the lease that its search of the table finds, as one event. -/
theorem releaseRevokeAndExpiryEndTheLease : Obligations.ReleaseRevokeAndExpiryEndTheLease := by
  intro s p tag running law
  refine ⟨fun l hl => ⟨fun served id holder => ?_, fun served supervisor id => ?_, exec_renewExpiry running law hl⟩,
    fun served supervisor absent => ?_, fun id notDue => ?_⟩
  · refine exec_leaseEnd (body := State.releaseBody p) (fun _ => rfl) served (law.fields hl).lines fun as rs => ?_
    have held : (s.servedAt p as rs).heldLease p (param (s.port p).params 0).toNat = .ok l := by
      have held := heldLease_of_mem law hl
      rw [id, holder] at held
      exact held
    simp only [State.releaseBody, held]
  · refine exec_leaseEnd (body := State.revokeBody p) (fun _ => rfl) served (law.fields hl).lines fun as rs => ?_
    have authority : (s.servedAt p as rs).isSupervisor p = true := isSupervisor_of supervisor
    have found : (s.servedAt p as rs).findLease (param (s.port p).params 0).toNat = some l := by
      have found := findLease_of_mem law.sorted hl
      rw [id] at found
      exact found
    simp [State.revokeBody, authority, found]
  · refine exec_kept (body := State.revokeBody p) (r := Reply.refuse .noLease) (fun _ => rfl)
      (IsRow.controller rfl).oneEvent rfl served fun as rs => ?_
    have authority : (s.servedAt p as rs).isSupervisor p = true := isSupervisor_of supervisor
    have found : (s.servedAt p as rs).findLease (param (s.port p).params 0).toNat = none :=
      findLease_none absent
    simp [State.revokeBody, authority, found]
  · have notDue : s.dueExpiry id = none := by
      unfold State.dueExpiry
      split
      · rename_i l found
        obtain ⟨hl, same⟩ := findLease_some found
        exact if_neg (notDue l hl same)
      · rfl
    simp only [exec, execRenewExpiry, takes_running running, notDue]

end Sys2Proof.Machine
end

section
/-! PROOF. Claims that leave the wait queue and the scan that follows (R33 to R37), as the rows that remove claims share
them. -/

namespace Sys2Proof.Machine

/-! ### Claims that leave the wait queue -/

/-- Only what a removal of claims and a scan may reach differs: the lease table and its counter, the wait queue, the bindings
of the lines and the event queues. -/
def ClaimsOnly (s t : State) : Prop :=
  t = { s with
    leases := t.leases, leaseCounter := t.leaseCounter, queue := t.queue, lines := t.lines, queues := t.queues }

section

variable {s t u : State}

theorem ClaimsOnly.refl (s : State) : ClaimsOnly s s := rfl

theorem ClaimsOnly.trans (h : ClaimsOnly s t) (k : ClaimsOnly t u) : ClaimsOnly s u := by
  unfold ClaimsOnly at *
  rw [h] at k
  exact k

/-- What a lease controller event reaches, up to the arrivals. -/
theorem ControllerOnly.claimsOnly (h : ControllerOnly s t) (arrivals : t.arrivals = s.arrivals) : ClaimsOnly s t := by
  unfold ControllerOnly at h
  unfold ClaimsOnly
  rw [arrivals] at h
  exact h

theorem ClaimsOnly.timestamp (h : ClaimsOnly s t) : t.timestamp = s.timestamp := by
  unfold ClaimsOnly at h
  rw [h]

theorem ClaimsOnly.ports (h : ClaimsOnly s t) : t.ports = s.ports := by
  unfold ClaimsOnly at h
  rw [h]

end

section

variable (p : Claim → Bool) (reason : Option Reason) (s : State)

/-- R37, R44: a removal of claims reaches the wait queue and the event queues alone. -/
theorem removeClaims_frame : s.removeClaims p reason =
    { s with queue := s.queue.filter fun c => !p c, queues := (s.removeClaims p reason).queues } := by
  cases reason with
  | none => rfl
  | some r => exact RecordsOnly.foldl (fun t (c : Claim) => raise_recordsOnly c.host _ t) _ _

theorem removeClaims_claimsOnly : ClaimsOnly s (s.removeClaims p reason) := by
  rw [removeClaims_frame]
  rfl

theorem scan_claimsOnly : ClaimsOnly s s.scan := (scan_controllerOnly s).claimsOnly (scan_arrivals s)

theorem scanIf_claimsOnly (removed : Bool) : ClaimsOnly s (s.scanIf removed) := by
  cases removed
  · exact .refl s
  · exact scan_claimsOnly s

/-- R33: where no claim satisfies the test, none leaves and no record is sent. -/
theorem removeClaims_of_none (h : ∀ c ∈ s.queue, p c = false) : s.removeClaims p reason = s := by
  have kept : (s.queue.filter fun c => !p c) = s.queue := List.filter_eq_self.mpr fun c hc => by simp [h c hc]
  have removed : s.queue.filter p = [] := List.filter_eq_nil_iff.mpr fun c hc => by simp [h c hc]
  unfold State.removeClaims
  rw [kept, removed]
  cases reason <;> rfl

end

/-- R36: a scan leaves no claim that another could grant. -/
theorem noGrantableLaw_scan (s : State) : NoGrantableLaw s.scan := by
  obtain ⟨grants, ⟨-, -, -, -, law⟩, -⟩ := scan_spec s
  exact law

/-- R44: the CLAIM_LAPSED records that host `h` receives of a removal of these claims, in queue order. -/
def lapses (reason : Option Reason) (removed : List Claim) (h : Host) : List Event :=
  match reason with
  | some r => (removed.filter fun c => c.host == h).map fun c => .claimLapsed c.ticket r
  | none => []

theorem received_removeClaims (p : Claim → Bool) (reason : Option Reason) (s : State) (h : Host) :
    Received h (lapses reason (s.queue.filter p) h) s (s.removeClaims p reason) := by
  cases reason with
  | none => exact .of_same rfl
  | some r =>
    unfold Received
    rw [(removeClaims_claimsOnly p _ s).timestamp]
    exact eventQueue_removeClaims p r s h

/-- R33 to R37, R44: all that a removal of claims does, with the scan where it removed one. -/
theorem removal_spec (p : Claim → Bool) (reason : Option Reason) (s : State) :
    ∃ grants, ((∃ c ∈ s.queue, p c = true) → Scanned s.leases (s.queue.filter fun c => !p c) grants s
          ((s.removeClaims p reason).scanIf (s.queue.any p)))
      ∧ ((∀ c ∈ s.queue, p c = false) → grants = [] ∧ (s.removeClaims p reason).scanIf (s.queue.any p) = s)
      ∧ (∀ i, ((s.removeClaims p reason).scanIf (s.queue.any p)).line i =
          { s.line i with holder := holderAfter grants i (s.line i).holder })
      ∧ ∀ h, ReceivedThenGrants h (lapses reason (s.queue.filter p) h) grants s
          ((s.removeClaims p reason).scanIf (s.queue.any p)) := by
  have frame := removeClaims_frame p reason s
  have received := received_removeClaims p reason s
  cases removed : s.queue.any p with
  | false =>
    have noneLeaves : ∀ c ∈ s.queue, p c = false := by simpa using removed
    have stays : s.removeClaims p reason = s := removeClaims_of_none p reason s noneLeaves
    refine ⟨[], fun ⟨c, hc, leaves⟩ => ?_, fun _ => ⟨rfl, stays⟩, fun i => congrArg (State.line · i) stays, fun h => ?_⟩
    · rw [noneLeaves c hc] at leaves
      cases leaves
    · simpa [ReceivedThenGrants, State.scanIf] using received h
  | true =>
    obtain ⟨grants, scanned, bound, granted⟩ := scan_spec (s.removeClaims p reason)
    obtain ⟨c, hc, leaves⟩ := List.any_eq_true.mp removed
    refine ⟨grants, fun _ => ?_, fun noneLeaves => ?_, fun i => ?_, fun h => ?_⟩
    · have leases : (s.removeClaims p reason).leases = s.leases := by rw [frame]
      rw [leases, removeClaims_queue] at scanned
      exact scanned.congr (by rw [frame]) rfl
    · rw [noneLeaves c hc] at leaves
      cases leaves
    · have line : (s.removeClaims p reason).line i = s.line i := line_congr (by rw [frame]) i
      exact (bound i).trans (by rw [line])
    · exact (received h).trans (granted h) (scan_claimsOnly _).timestamp

theorem removal_claimsOnly (p : Claim → Bool) (reason : Option Reason) (s : State) :
    ClaimsOnly s ((s.removeClaims p reason).scanIf (s.queue.any p)) :=
  (removeClaims_claimsOnly p reason s).trans (scanIf_claimsOnly _ _)

end Sys2Proof.Machine
end

section
/-! PROOF. No grantable claim stays in the wait queue (R36): the leases and the claims that wait stand, or their lines do; or
a claim is granted or placed; or a scan ends the event. -/

namespace Sys2Proof.Machine

/-! ### When the law is kept -/

/-- R36: from state `s` on the part leaves no grantable claim in `t`. -/
def KeepsNoGrantable (s t : State) : Prop := NoGrantableLaw s → NoGrantableLaw t

section

variable {s t u : State}

theorem KeepsNoGrantable.refl (s : State) : KeepsNoGrantable s s := id

theorem KeepsNoGrantable.of_same (h : t.tables = s.tables) : KeepsNoGrantable s t := fun law => law.congr h

theorem KeepsNoGrantable.from_same (k : KeepsNoGrantable t u) (h : t.tables = s.tables) : KeepsNoGrantable s u :=
  fun law => k (law.congr h)

theorem KeepsNoGrantable.to_same (k : KeepsNoGrantable s t) (h : u.tables = t.tables) : KeepsNoGrantable s u :=
  fun law => (k law).congr h

/-- R36: a claim that could not be granted cannot be while the lines of the leases stay held and the table no emptier. -/
theorem scanGrants_of_fuller {older older' : List Claim} {c c' : Claim} (h : s.scanGrants older c = false)
    (leases : ∀ l ∈ s.leases, ∃ m ∈ t.leases, m.entries = l.entries) (room : s.leases.length ≤ t.leases.length)
    (claims : ∀ d ∈ older, ∃ d' ∈ older', d'.entries = d.entries) (entries : c'.entries = c.entries) :
    t.scanGrants older' c' = false := by
  rw [← Bool.not_eq_true, scanGrants_iff] at h ⊢
  rw [entries]
  rintro ⟨free, unblocked, entry⟩
  refine h ⟨fun e he l hl => ?_, fun d hd => ?_, Nat.lt_of_le_of_lt room entry⟩
  · obtain ⟨m, hm, same⟩ := leases l hl
    exact same ▸ free e he m hm
  · obtain ⟨d', hd', same⟩ := claims d hd
    exact same ▸ unblocked d' hd'

/-- R36: the claims that wait keep their lines, those of the leases stay held and the table is no emptier. -/
theorem KeepsNoGrantable.of_fuller {f : Claim → Claim} (queue : t.queue = s.queue.map f)
    (claims : ∀ c, (f c).entries = c.entries) (leases : ∀ l ∈ s.leases, ∃ m ∈ t.leases, m.entries = l.entries)
    (room : s.leases.length ≤ t.leases.length) : KeepsNoGrantable s t := by
  unfold KeepsNoGrantable NoGrantableLaw
  rw [noneGrantable_iff, noneGrantable_iff, queue]
  intro law before c after e
  obtain ⟨before', rest, e', rfl, hc⟩ := List.map_eq_append_iff.mp e
  obtain ⟨c', after', rfl, rfl, -⟩ := List.map_eq_cons_iff.mp hc
  exact scanGrants_of_fuller (law before' c' after' e') leases room
    (fun d hd => ⟨f d, by simpa using List.mem_map_of_mem hd, claims d⟩) (claims c')

/-- R36: fields of leases change that the line sets have no part in. -/
theorem KeepsNoGrantable.of_leases_map {f : Lease → Lease} (leases : t.leases = s.leases.map f)
    (entries : ∀ l, (f l).entries = l.entries) (queue : t.queue = s.queue) : KeepsNoGrantable s t :=
  .of_fuller (f := id) (by rw [queue, List.map_id]) (fun _ => rfl)
    (fun l hl => ⟨f l, leases ▸ List.mem_map_of_mem hl, entries l⟩) (by rw [leases, List.length_map])

/-- R36: a lease is added. -/
theorem KeepsNoGrantable.of_grant {l : Lease} (leases : t.leases.Perm (l :: s.leases)) (queue : t.queue = s.queue) :
    KeepsNoGrantable s t :=
  .of_fuller (f := id) (by rw [queue, List.map_id]) (fun _ => rfl)
    (fun m hm => ⟨m, leases.mem_iff.mpr (List.mem_cons_of_mem l hm), rfl⟩)
    (by rw [leases.length_eq]; exact Nat.le_succ _)

/-- R15, R36: a claim that cannot be granted is placed behind the claims that wait. -/
theorem KeepsNoGrantable.of_place {c : Claim} (leases : t.leases = s.leases) (queue : t.queue = s.queue ++ [c])
    (blocked : s.scanGrants s.queue c = false) : KeepsNoGrantable s t := by
  unfold KeepsNoGrantable NoGrantableLaw
  rw [noneGrantable_iff, noneGrantable_iff, queue]
  intro law before d after e
  have kept : s.scanGrants before d = false := by
    rcases List.eq_nil_or_concat after with rfl | ⟨front, x, rfl⟩
    · obtain ⟨rfl, last⟩ := List.append_inj' e rfl
      cases last
      exact blocked
    · rw [List.concat_eq_append, ← List.cons_append, ← List.append_assoc] at e
      exact law before d front (List.append_inj' e rfl).1
  exact scanGrants_of_fuller kept (fun l hl => ⟨l, leases ▸ hl, rfl⟩) (by rw [leases]) (fun d hd => ⟨d, hd, rfl⟩) rfl

end

theorem keeps_scan (s t : State) : KeepsNoGrantable s t.scan := fun _ => noGrantableLaw_scan t

/-- R33, R36: claims leave, and the scan runs where one did. -/
theorem removal_keeps (p : Claim → Bool) (reason : Option Reason) (s : State) :
    KeepsNoGrantable s ((s.removeClaims p reason).scanIf (s.queue.any p)) := by
  cases removed : s.queue.any p with
  | false =>
    rw [removeClaims_of_none p reason s (by simpa using removed)]
    exact .refl s
  | true => exact keeps_scan _ _

theorem enterReset_keeps (s : State) : KeepsNoGrantable s s.enterReset := fun _ => rfl

theorem asOneEvent_keeps {f : State → State} (hf : ∀ s, KeepsNoGrantable s (f s)) (s : State) :
    KeepsNoGrantable s (State.asOneEvent f s) :=
  have kept := hf { s with arrivals := s.arrivals ++ [[]], reports := s.reports ++ [[]] }
  (kept.from_same (s := s) rfl).to_same (u := State.asOneEvent f s) rfl

theorem takes_keeps {f : State → State} (hf : ∀ s, KeepsNoGrantable s (f s)) {s t : State} (h : s.takes f = .next t) :
    KeepsNoGrantable s t := by
  unfold State.takes at h
  split at h <;> cases h
  · exact .refl _
  · exact hf s

/-! ### Owners -/

/-- The body of a command leaves no grantable claim. -/
def BodyKeeps (body : List Byte → State → State × Reply) : Prop := ∀ ps s, KeepsNoGrantable s (body ps s).1

theorem BodyKeeps.of_linesOnly {body : List Byte → State → State × Reply} (h : ∀ ps s, LinesOnly s (body ps s).1) :
    BodyKeeps body := fun ps s => .of_same (h ps s).tables

theorem ownerTakes_keeps {p : Host} {cmd : Cmd} {applies : List Byte → Bool}
    {body : List Byte → State → State × Reply} (h : BodyKeeps body) (s : State) :
    KeepsNoGrantable s (s.ownerTakes p cmd applies body) := by
  unfold State.ownerTakes
  split
  · exact (h _ s).to_same rfl
  · exact .refl s

theorem leaseControllerTakes_keeps {p : Host} {cmd : Cmd} {body : List Byte → State → State × Reply}
    (h : BodyKeeps body) (s : State) : KeepsNoGrantable s (s.leaseControllerTakes p cmd body) := by
  unfold State.leaseControllerTakes
  split
  · exact ownerTakes_keeps (fun ps t => (h ps { t with lastServed := p }).from_same rfl) s
  · exact .refl s

/-! ### The commands on leases and claims -/

/-- R13, R36: a claim that is placed is one that the scan would not grant behind the claims that wait. -/
theorem scanGrants_of_queued {s : State} {caller : Host} {es : List LineEntry} {limit : Nat} {c : Claim}
    (queued : s.admission caller es limit = .queued) (entries : c.entries = es) : s.scanGrants s.queue c = false := by
  unfold State.admission at queued
  unfold State.scanGrants
  rw [entries]
  cases now : s.allFree es && unclaimed s.queue es && s.hasEntry with
  | false => rfl
  | true =>
    rw [if_pos now] at queued
    split at queued
    · cases queued
    · split at queued <;> cases queued

theorem claimBody_keeps (caller : Host) : BodyKeeps (State.claimBody caller) := by
  intro ps s
  unfold State.claimBody
  split
  · exact .refl s
  · rename_i es _
    split
    · exact .of_grant (grant_leases caller es _ s) (grant_queue caller es _ s)
    · exact .of_place rfl rfl (scanGrants_of_queued ‹_› rfl)
    · exact .refl s

theorem cancelBody_keeps (caller : Host) : BodyKeeps (State.cancelBody caller) := by
  intro ps s
  unfold State.cancelBody
  split
  · exact .refl s
  · split
    · exact keeps_scan s _
    · exact .refl s

theorem releaseBody_keeps (caller : Host) : BodyKeeps (State.releaseBody caller) := by
  intro ps s
  unfold State.releaseBody
  split
  · exact .refl s
  · exact keeps_scan s _

/-- R21, R47, R54: one lease changes in fields that its line set has no part in. -/
theorem updateLease_keeps {id : Nat} {f : Lease → Lease} (s : State) (entries : ∀ l, (f l).entries = l.entries) :
    KeepsNoGrantable s (s.updateLease id f) :=
  .of_leases_map (updateLease_leases id f s) (fun l => by
    split
    · exact entries l
    · rfl) rfl

theorem renewBody_keeps (caller : Host) : BodyKeeps (State.renewBody caller) := by
  intro ps s
  unfold State.renewBody
  split
  · exact .refl s
  · exact updateLease_keeps s fun _ => rfl

theorem renewAllBody_keeps (caller : Host) : BodyKeeps (State.renewAllBody caller) := by
  intro ps s
  refine .of_leases_map rfl (fun l => ?_) rfl
  split <;> rfl

theorem queryLeaseBody_keeps : BodyKeeps State.queryLeaseBody := by
  intro ps s
  refine .of_same ?_
  unfold State.queryLeaseBody
  split
  · rfl
  · split <;> rfl

theorem offerBody_keeps (caller : Host) : BodyKeeps (State.offerBody caller) := by
  intro ps s
  unfold State.offerBody
  split
  · exact .refl s
  · exact (updateLease_keeps (f := fun m => { m with offer := some ⟨_, offerMs⟩ }) s fun _ => rfl).to_same rfl

/-- R51: a lease passes with its lines. -/
theorem transfer_tables (l : Lease) (h : Host) (s : State) :
    (s.transfer l h).tables = (s.updateLease l.id (Lease.passTo h)).tables :=
  ((rebindLines_linesOnly l.entries h _).trans (raise_recordsOnly _ _ _).linesOnly).tables

theorem acceptBody_keeps (caller : Host) : BodyKeeps (State.acceptBody caller) := by
  intro ps s
  unfold State.acceptBody
  split
  · exact .refl s
  · rename_i l _
    split
    · exact .refl s
    · have queue : (s.transfer l caller).queue = s.queue := congrArg Tables.queue (transfer_tables l caller s)
      have passed : KeepsNoGrantable s (s.transfer l caller) :=
        (updateLease_keeps (f := Lease.passTo caller) s fun _ => rfl).to_same (transfer_tables l caller s)
      have removed := removal_keeps (supersededBy caller l.entries) (some .superseded) (s.transfer l caller)
      rw [queue] at removed
      exact fun law => removed (passed law)

theorem declineBody_keeps (caller : Host) : BodyKeeps (State.declineBody caller) := by
  intro ps s
  unfold State.declineBody
  split
  · exact .refl s
  · exact (updateLease_keeps (f := Lease.activated) s fun _ => rfl).to_same rfl

theorem revokeBody_keeps (caller : Host) : BodyKeeps (State.revokeBody caller) := by
  intro ps s
  unfold State.revokeBody
  split
  · exact .refl s
  · split
    · exact .refl s
    · exact keeps_scan s _

theorem reserveBody_keeps (caller : Host) : BodyKeeps (State.reserveBody caller) := by
  intro ps s
  unfold State.reserveBody
  split
  · exact .refl s
  · split
    · exact .refl s
    · split
      · exact .refl s
      · rename_i a _
        have sets : KeepsNoGrantable s (s.reserveLines (paramMask ps 0) a) :=
          .of_leases_map (f := id) (List.map_id _).symm (fun _ => rfl) rfl
        exact fun law => removal_keeps (excludedBy (paramMask ps 0) a) (some .denied) _ (sets law)

theorem detachBody_keeps (caller : Host) : BodyKeeps (State.detachBody caller) := fun _ s => keeps_scan s _

theorem clearHostBody_keeps (caller : Host) : BodyKeeps (State.clearHostBody caller) := by
  intro ps s
  unfold State.clearHostBody
  split
  · exact .refl s
  · split
    · exact .refl s
    · exact keeps_scan s _

/-! ### Ticks and reset -/

/-- R20, R38, R49: the timers of leases and claims count. -/
theorem tick_keeps (order : List Line) (s : State) : KeepsNoGrantable s (s.tick order) := by
  unfold State.tick
  split
  · exact .refl s
  · have counted : KeepsNoGrantable s (s.countTick.tickWaits .lineMatrix) :=
      .of_fuller (f := Claim.tick) rfl (fun _ => rfl)
        (fun l hl => ⟨l.tick, List.mem_map_of_mem (f := Lease.tick) hl, rfl⟩) (Nat.le_of_eq (List.length_map Lease.tick).symm)
    exact counted.to_same (LinesOnly.foldl (fun t i => driveTest_linesOnly i _ t) _ _).tables

theorem pulseReset_keeps (ns : Nat) (s : State) : KeepsNoGrantable s (s.pulseReset ns) := by
  unfold State.pulseReset State.shortPulse
  dsimp only
  repeat' split
  · exact enterReset_keeps s
  · exact .refl s
  · exact (enterReset_keeps { s with freeCount := s.freeCount + 1 }).from_same rfl
  · exact .of_same rfl

/-- R67: an evaluation of the lines reaches no lease and no claim. -/
theorem tables_leaveReset (x : Straps) (s : State) : (s.leaveReset x).tables = s.tables := by
  have evaluate : ∀ (t : State) (i : Line), (t.evaluateLine i).tables = t.tables := fun t i =>
    (writeLine_linesOnly i _ { t with arrivals := t.arrivals ++ [[]], reports := t.reports ++ [[]] }).tables
  have evaluated := foldl_rel (rel := fun s t : State => t.tables = s.tables) (fun _ => rfl) (fun h k => k.trans h)
    evaluate allLines
    { s with inReset := false, supervisor := Straps.supervisorPort x, busAddress := Straps.address x }
  exact (tables_startUp _ _).trans evaluated

/-- R127, R128: a sample tick reaches no lease and no claim. -/
theorem tables_sampleLine (s : State) (i : Line) : (s.sampleLine i).tables = s.tables := by
  unfold State.sampleLine
  dsimp only
  split
  · exact tables_changeFiltered i _ _
  · rfl

/-! ### Every command -/

theorem portEvent_keeps {p : Host} {f : PortState → PortState} {s t : State} (h : s.portEvent p f = .next t) :
    KeepsNoGrantable s t :=
  takes_keeps (f := fun u => u.updatePort p fun q => f q.takeTimeout) (fun _ => .of_same rfl) h

/-- R36: every command and event leaves no grantable claim. -/
theorem exec_keeps {i : Instr} {s t : State} (h : exec i s = .next t) : KeepsNoGrantable s t := by
  cases i with
  | deviceReset cause =>
    cases h
    cases cause with
    | powerOn => exact enterReset_keeps s
    | rstLow ns => exact pulseReset_keeps ns s
  | deviceResetEnd x =>
    cases h
    split
    · exact .of_same (tables_leaveReset x s)
    · exact .refl s
  | millisecondTick order => exact takes_keeps (tick_keeps order) h
  | settleExpiry i =>
    simp only [exec, execSettleExpiry] at h
    refine takes_keeps (fun u => ?_) h
    split
    · exact tick_keeps [i] u
    · exact .refl u
  | renewExpiry id =>
    simp only [exec, execRenewExpiry] at h
    refine takes_keeps (fun u => ?_) h
    split
    · exact asOneEvent_keeps (fun v => keeps_scan v _) u
    · exact .refl u
  | waitLapse ticket =>
    simp only [exec, execWaitLapse] at h
    refine takes_keeps (fun u => ?_) h
    split
    · exact keeps_scan u _
    · exact .refl u
  | offerLapse id =>
    simp only [exec, execOfferLapse] at h
    refine takes_keeps (fun u => ?_) h
    split
    · exact (updateLease_keeps (f := Lease.activated) u fun _ => rfl).to_same rfl
    · exact .refl u
  | pulseCompletion i =>
    simp only [exec, execPulseCompletion] at h
    refine takes_keeps (fun u => ?_) h
    split
    · exact asOneEvent_keeps (fun v => .of_same (completePulse_linesOnly i _ v).tables) u
    all_goals exact .refl u
  | busTimeout p | busError p c | startCondition p | stopCondition p | addressByte p b | commandFrame p bs scl
  | responseRead p as scl => exact portEvent_keeps h
  | claim p => exact takes_keeps (leaseControllerTakes_keeps (claimBody_keeps p)) h
  | cancelClaim p => exact takes_keeps (leaseControllerTakes_keeps (cancelBody_keeps p)) h
  | release p => exact takes_keeps (asOneEvent_keeps (leaseControllerTakes_keeps (releaseBody_keeps p))) h
  | renew p => exact takes_keeps (leaseControllerTakes_keeps (renewBody_keeps p)) h
  | renewAll p => exact takes_keeps (leaseControllerTakes_keeps (renewAllBody_keeps p)) h
  | queryLease p => exact takes_keeps (leaseControllerTakes_keeps queryLeaseBody_keeps) h
  | offer p => exact takes_keeps (leaseControllerTakes_keeps (offerBody_keeps p)) h
  | accept p => exact takes_keeps (leaseControllerTakes_keeps (acceptBody_keeps p)) h
  | decline p => exact takes_keeps (leaseControllerTakes_keeps (declineBody_keeps p)) h
  | revoke p => exact takes_keeps (asOneEvent_keeps (leaseControllerTakes_keeps (revokeBody_keeps p))) h
  | reserve p => exact takes_keeps (leaseControllerTakes_keeps (reserveBody_keeps p)) h
  | detach p => exact takes_keeps (asOneEvent_keeps (leaseControllerTakes_keeps (detachBody_keeps p))) h
  | clearHost p => exact takes_keeps (asOneEvent_keeps (leaseControllerTakes_keeps (clearHostBody_keeps p))) h
  | setLevel p =>
    exact takes_keeps (asOneEvent_keeps (ownerTakes_keeps (.of_linesOnly (setLevelBody_linesOnly p)))) h
  | configure p =>
    exact takes_keeps (asOneEvent_keeps (ownerTakes_keeps (.of_linesOnly (configureBody_linesOnly p)))) h
  | configureMirror p =>
    exact takes_keeps (asOneEvent_keeps (ownerTakes_keeps (.of_linesOnly (configureMirrorBody_linesOnly p)))) h
  | pulse p => exact takes_keeps (asOneEvent_keeps (ownerTakes_keeps (.of_linesOnly (pulseBody_linesOnly p)))) h
  | readLines p => exact takes_keeps (ownerTakes_keeps (.of_linesOnly fun _ s => .refl s)) h
  | queryLine p => exact takes_keeps (ownerTakes_keeps (.of_linesOnly queryLineBody_linesOnly)) h
  | externalStateChange i x =>
    cases h
    split
    · exact .of_same rfl
    · exact (asOneEvent_keeps (fun u => .of_same (writeLine_linesOnly i (u.line i) u).tables) _).from_same rfl
  | filteredReport i =>
    simp only [exec, execFilteredReport] at h
    refine takes_keeps (fun u => ?_) h
    split
    · exact (asOneEvent_keeps (fun v => .of_same (takeReport_linesOnly i _ v).tables) _).from_same rfl
    · exact .refl u
  | arrival i =>
    simp only [exec, execArrival] at h
    refine takes_keeps (fun u => ?_) h
    split
    · exact .of_same (raiseEdges_recordsOnly i _ .raw _).linesOnly.tables
    · exact .refl u
  | sampleTick =>
    simp only [exec, execSampleTick] at h
    refine takes_keeps (fun u => ?_) h
    split
    · exact .refl u
    · exact (asOneEvent_keeps (fun v => .of_same (foldl_rel (rel := fun s t : State => t.tables = s.tables)
        (fun _ => rfl) (fun h k => k.trans h) tables_sampleLine allLines v)) u).to_same (tables_tickWaits _ _)
  | subscribe p =>
    simp only [exec, execSubscribe] at h
    refine takes_keeps (fun u => ?_) h
    split
    · exact ownerTakes_keeps (fun ps v => .of_same (by rw [subscribeBody_frame]; rfl)) u
    · exact .refl u
  | unsubscribe p => exact takes_keeps (ownerTakes_keeps fun ps v => .of_same (by rw [unsubscribeBody_frame]; rfl)) h
  | poll p => exact takes_keeps (ownerTakes_keeps fun _ _ => .of_same rfl) h
  | attention p => exact takes_keeps (ownerTakes_keeps (.of_linesOnly (attentionBody_linesOnly p))) h

theorem step_keeps {s t : State} (h : step s = .next t) : KeepsNoGrantable s t := by
  unfold step at h
  split at h
  · cases h
    exact .refl s
  · exact (exec_keeps h).from_same rfl

/-- Settles O7: every step keeps the law, which says of each waiting claim which of the three conditions it fails. -/
theorem stepLeavesNoGrantableClaim : Obligations.StepLeavesNoGrantableClaim := by
  refine ⟨noGrantableLaw_reset, fun s t h law older younger c queue free unblocked => ?_⟩
  have kept := (noneGrantable_iff t t.queue []).mp (step_keeps h law) older c younger queue
  by_contra room
  rw [List.nil_append, (scanGrants_iff t older c).mpr ⟨free, unblocked, Nat.lt_of_not_le room⟩] at kept
  cases kept

end Sys2Proof.Machine
end

section
/-! PROOF. The rows that remove claims from the wait queue: CANCEL_CLAIM, the wait lapse, ACCEPT and RESERVE (R39, R41 to R44,
R51, R52, R110, R111). -/

namespace Sys2Proof.Machine

/-! ### A removal of claims as the end of an event -/

/-- R33 to R37, R44: what an event leaves whose last step removes the claims of state `v` that satisfy the test, up to the
ports. -/
theorem removal_event {s t v : State} (p : Claim → Bool) (reason : Option Reason) (counter : v.leaseCounter = s.leaseCounter)
    (ht : t = { (v.removeClaims p reason).scanIf (v.queue.any p) with ports := t.ports }) :
    ∃ grants, ((∃ c ∈ v.queue, p c = true) → Scanned v.leases (v.queue.filter fun c => !p c) grants s t)
      ∧ ((∀ c ∈ v.queue, p c = false) → grants = [] ∧ t.tables = v.tables)
      ∧ (∀ i, t.line i = { v.line i with holder := holderAfter grants i (v.line i).holder })
      ∧ ∀ h, ReceivedThenGrants h (lapses reason (v.queue.filter p) h) grants v t := by
  obtain ⟨grants, scanned, stays, lines, received⟩ := removal_spec p reason v
  have tables : t.tables = ((v.removeClaims p reason).scanIf (v.queue.any p)).tables := by
    rw [ht]
    rfl
  refine ⟨grants, fun leaves => (scanned leaves).congr counter.symm tables, fun noneLeaves => ?_, fun i => ?_, fun h => ?_⟩
  · obtain ⟨empty, same⟩ := stays noneLeaves
    exact ⟨empty, by rw [tables, same]⟩
  · rw [← lines i, ht]
    rfl
  · exact Received.congr (received h) rfl (by rw [ht]) (by rw [ht])

/-- R7: the frame of a command of the lease controller that ends with a removal of claims. -/
theorem ClaimsOnly.answered {s t u : State} {p : Host} (h : ClaimsOnly { s with lastServed := p } u)
    (ht : t = { u with ports := t.ports }) : t = { s with
      leases := t.leases, leaseCounter := t.leaseCounter, queue := t.queue, lines := t.lines, queues := t.queues
      ports := t.ports, lastServed := p } := by
  unfold ClaimsOnly at h
  rw [ht, h]

/-! ### CANCEL_CLAIM and the wait lapse -/

section

variable {s : State} {c : Claim}

/-- R28, R31: in a queue whose tickets are distinct, the claims with the ticket of a waiting claim are that claim. -/
theorem WaitQueueLaw.filter_ticket (law : WaitQueueLaw s) (hc : c ∈ s.queue) :
    (s.queue.filter fun d => d.ticket == c.ticket) = [c] := by
  obtain ⟨-, -, tickets, -⟩ := law
  obtain ⟨older, younger, queue⟩ := List.append_of_mem hc
  rw [queue, List.pairwise_append, List.pairwise_cons] at tickets
  obtain ⟨-, ⟨behind, -⟩, before⟩ := tickets
  have left : (older.filter fun d => d.ticket == c.ticket) = [] :=
    List.filter_eq_nil_iff.mpr fun d hd => by simpa using before d hd c (by simp)
  have right : (younger.filter fun d => d.ticket == c.ticket) = [] :=
    List.filter_eq_nil_iff.mpr fun d hd => by simpa using (behind d hd).symm
  rw [queue, List.filter_append, List.filter_cons, left, right]
  simp

/-- R28, R31: a waiting claim is found by its ticket. -/
theorem findClaim_of_mem (law : WaitQueueLaw s) (hc : c ∈ s.queue) : s.findClaim c.ticket = some c := by
  rw [State.findClaim, ← List.head?_filter, law.filter_ticket hc]
  rfl

/-- R37: the claim with the ticket of a waiting claim leaves, and the scan runs. -/
theorem removeClaims_ticket_scan (reason : Option Reason) (hc : c ∈ s.queue) :
    (s.removeClaims (fun d => d.ticket == c.ticket) reason).scan =
      (s.removeClaims (fun d => d.ticket == c.ticket) reason).scanIf (s.queue.any fun d => d.ticket == c.ticket) := by
  rw [List.any_eq_true.mpr ⟨c, hc, by simp⟩]
  rfl

end

/-- R41: a ticket that no waiting claim of the caller has is answered NO_CLAIM. -/
theorem cancelBody_noClaim {s : State} {caller : Host} {ps : List Byte}
    (absent : ∀ c ∈ s.queue, c.ticket = (param ps 0).toNat → c.host ≠ caller) :
    State.cancelBody caller ps s = (s, Reply.refuse .noClaim) := by
  unfold State.cancelBody
  split
  · rfl
  · rename_i c found
    obtain ⟨hc, ticket⟩ := findClaim_some found
    exact if_neg (absent c hc ticket)

/-- Settles O24: the one claim with the ticket leaves, and the scan follows. -/
theorem cancelClaimRemovesTheCallersClaim : Obligations.CancelClaimRemovesTheCallersClaim := by
  intro s p tag served law
  refine ⟨fun c hc ticket host => ?_, fun absent => ?_⟩
  · let u : State := { s with lastServed := p }
    let leaves : Claim → Bool := fun d => d.ticket == c.ticket
    have found : u.findClaim (param (s.port p).params 0).toNat = some c := by
      have found := findClaim_of_mem law hc
      rw [ticket] at found
      exact found
    have hb : State.cancelBody p (s.port p).params u =
        ((u.removeClaims leaves none).scanIf (u.queue.any leaves), Reply.ok) := by
      rw [State.cancelBody, found]
      exact (if_pos host).trans (congrArg (·, Reply.ok) (removeClaims_ticket_scan (s := u) none hc))
    have frame := removal_claimsOnly leaves none u
    obtain ⟨t, ht, rest, answered⟩ := exec_changed (i := .cancelClaim p) (fun _ => rfl) served hb frame.ports
    obtain ⟨grants, scanned, -, lines, received⟩ := removal_event (s := s) (v := u) leaves none rfl rest
    exact ⟨t, grants, ht, frame.answered rest, scanned ⟨c, hc, by simp [leaves]⟩, lines, received, answered⟩
  · refine exec_kept (i := .cancelClaim p) (body := State.cancelBody p) (r := Reply.refuse .noClaim) (fun _ => rfl)
      (.controller rfl) rfl served fun as rs => cancelBody_noClaim ?_
    rcases absent with zero | absent
    · intro c hc ticket
      obtain ⟨-, -, -, fields, -⟩ := law
      obtain ⟨⟨positive, -⟩, -⟩ := fields c hc
      exact absurd (ticket.trans zero) (by omega)
    · exact absent

/-- Settles O25: a due lapse finds its claim by the ticket, and a ticket whose claim is not due finds none. -/
theorem waitLapseRemovesTheClaim : Obligations.WaitLapseRemovesTheClaim := by
  intro s running law
  refine ⟨fun c hc due => ?_, fun ticket notDue => ?_⟩
  · let leaves : Claim → Bool := fun d => d.ticket == c.ticket
    have lapse : s.dueLapse c.ticket = some c := by simp [State.dueLapse, findClaim_of_mem law hc, due]
    obtain ⟨grants, scanned, -, lines, received⟩ :=
      removal_event (s := s) (v := s) (t := (s.removeClaims leaves (some .timeout)).scanIf (s.queue.any leaves)) leaves
        (some .timeout) rfl rfl
    refine ⟨_, grants, ?_, removal_claimsOnly leaves (some .timeout) s, scanned ⟨c, hc, by simp [leaves]⟩, lines, fun h => ?_⟩
    · rw [← removeClaims_ticket_scan _ hc]
      simp only [exec, execWaitLapse, takes_running running, lapse]
    · have told : lapses (some .timeout) (s.queue.filter leaves) h =
          if h = c.host then [.claimLapsed c.ticket .timeout] else [] := by
        rw [lapses, law.filter_ticket hc]
        by_cases host : h = c.host
        · simp [host]
        · simp [host, Ne.symm host]
      rw [← told]
      exact received h
  · have notDue : s.dueLapse ticket = none := by
      unfold State.dueLapse
      split
      · rename_i c found
        obtain ⟨hc, same⟩ := findClaim_some found
        exact if_neg (notDue c hc same)
      · rfl
    simp only [exec, execWaitLapse, takes_running running, notDue]

/-! ### ACCEPT -/

/-- R140: a record raised reaches its host alone. -/
theorem received_raise (s : State) (k : Host) (e : Event) (h : Host) :
    Received h (if h = k then [e] else []) s (s.raise k e) := by
  unfold Received
  rw [State.eventQueue_raise]
  by_cases same : h = k
  · subst same
    simp
  · simp [same]

/-- R69: rebinding lines reaches the line records alone. -/
theorem rebindLines_frame (es : List LineEntry) (h : Host) (s : State) :
    s.rebindLines es h = { s with lines := (s.rebindLines es h).lines } :=
  foldl_rel (rel := fun s t : State => t = { s with lines := t.lines }) (fun _ => rfl)
    (fun h k => by rw [h] at k; exact k) (fun _ _ => rfl) es s

section

variable (l : Lease) (h : Host) (s : State)

theorem transfer_claimsOnly : ClaimsOnly s (s.transfer l h) := by
  unfold ClaimsOnly State.transfer
  rw [rebindLines_frame]
  rfl

/-- R51, R69: the lines of the lease are rebound, and nothing else of any line changes. -/
theorem line_transfer (i : Line) : (s.transfer l h).line i = { s.line i with
    holder := if coversLine l.entries i then (s.line i).holder.map fun b => { b with host := h }
      else (s.line i).holder } := by
  refine (line_rebindLines l.entries h _ i).trans ?_
  split <;> rfl

/-- R51: the previous holder receives TRANSFERRED. -/
theorem received_transfer (k : Host) :
    Received k (if k = l.holder then [.transferred l.id h] else []) s (s.transfer l h) := by
  have quiet : Received k [] s ((s.updateLease l.id fun m => { m.activated.renewed with holder := h }).rebindLines
      l.entries h) := .of_same (by rw [rebindLines_frame]; rfl)
  exact quiet.trans (received_raise _ l.holder _ k) rfl

end

/-- R51: the lease table once a lease has passed to host `h`. -/
theorem transfer_leases {s : State} {l : Lease} (law : LeaseTableLaw s) (hl : l ∈ s.leases) (h : Host) :
    (s.transfer l h).leases = s.leases.map fun m => if m.id = l.id then { l with
      holder := h, offer := none, remaining := if l.interval = 0 then none else some (l.interval * 20) } else m := by
  refine (congrArg Tables.leases (transfer_tables l h s)).trans (List.map_congr_left fun m hm => ?_)
  split
  · rename_i same
    rw [law.eq_of_id hl hm same]
    rfl
  · rfl

/-- R50: a lease offered to the caller is the one that its id names. -/
theorem offeredLease_of_mem {s : State} {l : Lease} {o : Offer} (law : LeaseTableLaw s) (hl : l ∈ s.leases)
    (offer : l.offer = some o) : s.offeredLease o.target l.id = some l := by
  simp [State.offeredLease, findLease_of_mem law.sorted hl, offer]

/-- R42, R44: the CLAIM_LAPSED records of a supersession go to the new holder alone. -/
theorem lapses_superseded (claims : List Claim) (p : Host) (entries : List LineEntry) (h : Host) :
    lapses (some .superseded) (claims.filter (supersededBy p entries)) h =
      if h = p then (claims.filter fun c => c.host == p && sharesLine c.entries entries).map
        fun c => Event.claimLapsed c.ticket .superseded else [] := by
  rw [lapses, List.filter_filter]
  by_cases target : h = p
  · subst target
    rw [if_pos rfl]
    congr 1
    refine List.filter_congr fun c _ => ?_
    simp [supersededBy]
  · rw [if_neg target, List.map_eq_nil_iff, List.filter_eq_nil_iff]
    intro c _ both
    simp only [supersededBy, Bool.and_eq_true, beq_iff_eq] at both
    exact target (both.1.symm.trans both.2.1)

/-- Settles O33: the lease passes, and then the claims that it supersedes are removed. -/
theorem acceptTransfersTheLease : Obligations.AcceptTransfersTheLease := by
  intro s p tag l o served law hl id offer target allowed
  let u : State := { s with lastServed := p }
  let v : State := u.transfer l p
  have passed : ClaimsOnly u v := transfer_claimsOnly l p u
  have tables := transfer_tables l p u
  have queue : v.queue = s.queue := congrArg Tables.queue tables
  have leases := transfer_leases (s := u) law hl p
  have offered : u.offeredLease p (param (s.port p).params 0).toNat = some l := by
    have offered := offeredLease_of_mem law hl offer
    rw [target, id] at offered
    exact offered
  have allowed : u.allowsAll p l.entries = true := allowsAll_iff.mpr allowed
  have hb : State.acceptBody p (s.port p).params u =
      ((v.removeClaims (supersededBy p l.entries) (some .superseded)).scanIf
        (v.queue.any (supersededBy p l.entries)), Reply.ok) := by
    simp only [State.acceptBody, offered, allowed, State.acceptLease, queue]
    rfl
  have frame := passed.trans (removal_claimsOnly (supersededBy p l.entries) (some .superseded) v)
  obtain ⟨t, ht, rest, answered⟩ := exec_changed (i := .accept p) (fun _ => rfl) served hb frame.ports
  obtain ⟨grants, scanned, stays, lines, received⟩ :=
    removal_event (s := s) _ _ (congrArg Tables.leaseCounter tables) rest
  rw [queue] at scanned stays received
  refine ⟨t, grants, ht, frame.answered rest, fun ⟨c, hc, own, shared⟩ => ?_, fun apart => ?_, fun i => ?_, fun h => ?_,
    answered⟩
  · rw [← leases]
    exact scanned ⟨c, hc, by simp [supersededBy, own, shared]⟩
  · obtain ⟨empty, same⟩ := stays fun c hc => by simpa [supersededBy] using apart c hc
    rw [tables] at same
    exact ⟨empty, congrArg Tables.queue same, congrArg Tables.leaseCounter same,
      ((congrArg Tables.leases same).trans (congrArg Tables.leases tables).symm).trans leases⟩
  · rw [lines i, line_transfer]
    rfl
  · rw [← lapses_superseded]
    have all := (received_transfer l p u h).trans (received h) (by rw [rest]; exact (removal_claimsOnly _ _ v).timestamp)
    rw [← List.append_assoc] at all
    exact all

/-! ### RESERVE -/

/-- R110, R180: a host set that names no host above 3, as its byte is read. -/
theorem hostSetOf_of_toNat {b : Byte} {a : HostSet} (h : b.toNat = a.toNat) : hostSetOf b = some a := by
  have small : b.toNat < 16 := h ▸ a.isLt
  have high : b.extractLsb' 4 4 = 0 := BitVec.eq_of_toNat_eq (by
    rw [BitVec.extractLsb'_toNat, Nat.shiftRight_eq_div_pow, Nat.div_eq_of_lt small]
    rfl)
  have low : b.extractLsb' 0 4 = a := BitVec.eq_of_toNat_eq (by
    rw [BitVec.extractLsb'_toNat, Nat.shiftRight_zero, Nat.mod_eq_of_lt small, h])
  rw [hostSetOf, if_pos high, low]

/-- R110, R180: a host set that names a host above 3 is none. -/
theorem hostSetOf_of_large {b : Byte} (h : 15 < b.toNat) : hostSetOf b = none := by
  refine if_neg fun high => ?_
  have zero : b.toNat / 2 ^ 4 % 2 ^ 4 = 0 := by
    rw [← Nat.shiftRight_eq_div_pow, ← BitVec.extractLsb'_toNat, high]
    rfl
  have small := b.isLt
  omega

/-- R110: a mask that names no line, or a set that names a host above 3, is refused. -/
theorem reserveBody_badParam {s : State} {caller : Host} {ps : List Byte} (supervisor : s.supervisor = some caller)
    (bad : paramMask ps 0 = 0 ∨ 15 < (param ps 3).toNat) :
    State.reserveBody caller ps s = (s, Reply.refuse .badParam) := by
  unfold State.reserveBody
  rw [isSupervisor_of supervisor]
  by_cases mask : paramMask ps 0 = 0
  · rw [if_pos mask]
    rfl
  · rw [if_neg mask, hostSetOf_of_large (bad.resolve_left mask)]
    rfl

/-- Settles O37: the sets are replaced, and then the claims that they exclude are purged. -/
theorem reserveReplacesSetsAndPurges : Obligations.ReserveReplacesSetsAndPurges := by
  intro s p tag served supervisor
  refine ⟨fun bad => ?_, fun a mask set => ?_⟩
  · exact exec_kept (i := .reserve p) (body := State.reserveBody p) (r := Reply.refuse .badParam) (fun _ => rfl)
      (.controller rfl) rfl served fun as rs => reserveBody_badParam supervisor bad
  · let m := paramMask (s.port p).params 0
    let u : State := { s with lastServed := p }
    let v : State := u.reserveLines m a
    have hb : State.reserveBody p (s.port p).params u =
        ((v.removeClaims (excludedBy m a) (some .denied)).scanIf (v.queue.any (excludedBy m a)),
          ⟨.ok, [byteOf (s.queue.filter (excludedBy m a)).length]⟩) := by
      simp only [State.reserveBody, isSupervisor_of (s := u) supervisor, if_neg mask, hostSetOf_of_toNat set]
      rfl
    have frame := removal_claimsOnly (excludedBy m a) (some .denied) v
    obtain ⟨t, ht, rest, answered⟩ := exec_changed (i := .reserve p) (fun _ => rfl) served hb frame.ports
    obtain ⟨grants, scanned, stays, lines, received⟩ := removal_event (s := s) (v := v) _ _ rfl rest
    unfold ClaimsOnly at frame
    have allowed : t.allowed = v.allowed := by rw [rest, frame]
    refine ⟨t, grants, ht, ?_, fun i => ?_, scanned, fun noneLeaves => ?_, lines, fun h => ?_, answered⟩
    · rw [rest, frame]
      rfl
    · rw [State.allowedOn, allowed]
      exact allowedOn_reserveLines m a u i
    · obtain ⟨empty, same⟩ := stays noneLeaves
      exact ⟨empty, congrArg Tables.queue same, congrArg Tables.leases same, congrArg Tables.leaseCounter same⟩
    · have told : lapses (some .denied) (s.queue.filter (excludedBy m a)) h =
          (s.queue.filter fun c => excludedBy m a c && c.host == h).map fun c => Event.claimLapsed c.ticket .denied := by
        rw [lapses, List.filter_filter]
        simp only [Bool.and_comm]
      rw [← told]
      exact received h

end Sys2Proof.Machine
end

section
/-! PROOF. The teardown of a host (R113 to R116, R151): its claims, the offers to it and its leases end, its subscriptions and
records go, and the scan follows, as one event. -/

namespace Sys2Proof.Machine

/-! ### What the ends of offers and leases reach -/

/-- Only what the ends of offers and leases reach before the scan differs: the lease table, the line records, the arrivals and
the event queues. -/
def LeasesOnly (s t : State) : Prop :=
  t = { s with leases := t.leases, lines := t.lines, arrivals := t.arrivals, queues := t.queues }

section

variable {s t u : State}

theorem LeasesOnly.refl (s : State) : LeasesOnly s s := rfl

theorem LeasesOnly.trans (h : LeasesOnly s t) (k : LeasesOnly t u) : LeasesOnly s u := by
  unfold LeasesOnly at *
  rw [h] at k
  exact k

theorem LinesOnly.leasesOnly (h : LinesOnly s t) : LeasesOnly s t := by
  unfold LinesOnly at h
  rw [h]
  rfl

theorem LeasesOnly.foldl {α : Type} {g : State → α → State} (step : ∀ s x, LeasesOnly s (g s x)) (xs : List α)
    (s : State) : LeasesOnly s (xs.foldl g s) :=
  foldl_rel LeasesOnly.refl LeasesOnly.trans step xs s

theorem LeasesOnly.timestamp (h : LeasesOnly s t) : t.timestamp = s.timestamp := by
  unfold LeasesOnly at h
  rw [h]

theorem LeasesOnly.external (h : LeasesOnly s t) : t.external = s.external := by
  unfold LeasesOnly at h
  rw [h]

end

theorem endOfferTo_leasesOnly (n : Host) (l : Lease) (s : State) : LeasesOnly s (s.endOfferTo n l) := by
  unfold State.endOfferTo
  split
  · split <;> rfl
  · rfl

theorem endLease_leasesOnly (l : Lease) (cause : EndCause) (s : State) : LeasesOnly s (s.endLease l cause) :=
  (((withdrawOffer_recordsOnly l cause s).trans (noticeLoss_recordsOnly l cause _)).linesOnly.trans
    (parkLines_linesOnly l.entries _)).leasesOnly.trans rfl

/-! ### The steps of a teardown -/

/-- R114, step 1: the waiting claims of host `n` leave the queue. -/
def State.dismissClaims (n : Host) (s : State) : State := s.removeClaims (fun c => c.host == n) none

/-- R56, R114, step 2: the offers to host `n` end. -/
def State.endOffersTo (n : Host) (s : State) : State := s.leases.foldl (fun t l => t.endOfferTo n l) s

/-- R114, step 3: the leases of host `n` end. -/
def State.endLeasesOf (n : Host) (s : State) : State := (s.leasesOf n).foldl (fun t l => t.endLease l .teardown) s

/-- R114, steps 1 to 3. -/
def State.shutOut (n : Host) (s : State) : State := ((s.dismissClaims n).endOffersTo n).endLeasesOf n

/-- R114: the steps of a teardown, and the scan last. -/
theorem teardown_eq (n : Host) (supervisor : Option Host) (s : State) : s.teardown n supervisor =
    (((s.shutOut n).unsubscribeAll n).updateQueue n fun _ =>
      EventQueue.clear (s.shutOut n).timestamp supervisor).scan := rfl

theorem dismissClaims_frame (n : Host) (s : State) :
    s.dismissClaims n = { s with queue := s.queue.filter fun c => c.host != n } := rfl

theorem endOffersTo_leasesOnly (n : Host) (s : State) : LeasesOnly s (s.endOffersTo n) :=
  .foldl (fun t l => endOfferTo_leasesOnly n l t) _ s

theorem shutOut_leasesOnly (n : Host) (s : State) : LeasesOnly (s.dismissClaims n) (s.shutOut n) :=
  (endOffersTo_leasesOnly n _).trans (.foldl (fun t l => endLease_leasesOnly l .teardown t) _ _)

/-! ### The offers to the host -/

/-- R3: the lease is OFFERED to host `n`. -/
def Lease.offeredTo (n : Host) (l : Lease) : Bool := l.offer.map (fun o => o.target) == some n

/-- R56: a lease, with an offer to host `n` ended. -/
def Lease.withoutOfferTo (n : Host) (m : Lease) : Lease :=
  if m.offer.map (fun o => o.target) = some n then { m with offer := none } else m

section

variable (n : Host) (m : Lease)

theorem id_withoutOfferTo : (m.withoutOfferTo n).id = m.id := by
  unfold Lease.withoutOfferTo
  split <;> rfl

theorem holder_withoutOfferTo : (m.withoutOfferTo n).holder = m.holder := by
  unfold Lease.withoutOfferTo
  split <;> rfl

/-- R56: it is offered to host `n` no more. -/
theorem target_withoutOfferTo : ∀ o ∈ (m.withoutOfferTo n).offer, o.target ≠ n := by
  unfold Lease.withoutOfferTo
  split
  · simp
  · rename_i other
    intro o ho target
    rw [Option.mem_def.mp ho, Option.map_some, target] at other
    exact other rfl

/-- R56: what the end of an offer does, where the lease is offered to host `n`. -/
theorem endOfferTo_eq (l : Lease) (s : State) : s.endOfferTo n l =
    if l.offeredTo n then (s.updateLease l.id Lease.activated).raise l.holder (.offerLapsed l.id .targetGone)
    else s := by
  unfold State.endOfferTo Lease.offeredTo
  cases l.offer with
  | none => rfl
  | some o => simp

end

/-- R56: the leases once the offers to host `n` among some leases have ended. -/
theorem leases_foldl_endOfferTo (n : Host) (ls : List Lease) (s : State) :
    (ls.foldl (fun t l => t.endOfferTo n l) s).leases = s.leases.map fun m =>
      if ls.any fun l => l.id == m.id && l.offeredTo n then m.activated else m := by
  induction ls generalizing s with
  | nil => simp
  | cons l ls ih =>
    rw [List.foldl_cons, ih, endOfferTo_eq]
    cases offered : l.offeredTo n with
    | false => simp [offered]
    | true =>
      rw [if_pos rfl, State.raise_leases, updateLease_leases, List.map_map]
      refine List.map_congr_left fun m _ => ?_
      by_cases same : m.id = l.id
      · simp [same, offered, Lease.activated]
      · simp [same, Ne.symm same]

/-- R56, R114: every lease offered to host `n` becomes ACTIVE, and no other changes. -/
theorem endOffersTo_leases {s : State} (law : LeaseTableLaw s) (n : Host) :
    (s.endOffersTo n).leases = s.leases.map (Lease.withoutOfferTo n) := by
  refine (leases_foldl_endOfferTo n s.leases s).trans (List.map_congr_left fun m hm => ?_)
  have itself : (s.leases.any fun l => l.id == m.id && l.offeredTo n) = true
      ↔ m.offer.map (fun o => o.target) = some n := by
    simp only [List.any_eq_true, Bool.and_eq_true, beq_iff_eq, Lease.offeredTo]
    constructor
    · rintro ⟨l, hl, same, offered⟩
      rwa [law.eq_of_id hm hl same] at offered
    · exact fun offered => ⟨m, hm, rfl, offered⟩
  simp only [itself]
  rfl

/-- R46: no lease is offered to its holder, so that the leases of host `n` stand as the offers to it end. -/
theorem leasesOf_endOffersTo {s : State} (law : LeaseTableLaw s) (n : Host) :
    (s.endOffersTo n).leasesOf n = s.leasesOf n := by
  unfold State.leasesOf
  rw [endOffersTo_leases law, List.filter_map]
  have holders : ((fun l : Lease => l.holder == n) ∘ Lease.withoutOfferTo n) = fun l => l.holder == n :=
    funext fun l => by simp [holder_withoutOfferTo]
  rw [holders]
  conv_rhs => rw [← List.map_id (s.leases.filter fun l => l.holder == n)]
  refine List.map_congr_left fun m hm => if_neg fun offered => ?_
  obtain ⟨hm, holder⟩ := List.mem_filter.mp hm
  obtain ⟨o, ho, target⟩ := Option.map_eq_some_iff.mp offered
  obtain ⟨-, -, -, -, -, other⟩ := law.fields hm
  exact (other o ho).1 (target.trans (beq_iff_eq.mp holder).symm)

/-- R56, R115: the holder of a lease offered to host `n` receives OFFER_LAPSED TARGET_GONE. -/
theorem received_endOfferTo (n : Host) (l : Lease) (s : State) (h : Host) :
    Received h (if l.holder == h && l.offeredTo n then [.offerLapsed l.id .targetGone] else []) s
      (s.endOfferTo n l) := by
  rw [endOfferTo_eq]
  cases l.offeredTo n with
  | false => simpa using Received.of_same rfl
  | true =>
    have told := received_raise (s.updateLease l.id Lease.activated) l.holder (.offerLapsed l.id .targetGone) h
    rw [Bool.and_true, Bool.beq_comm]
    simpa only [beq_iff_eq, if_true] using told.congr (s' := s) rfl rfl rfl

theorem received_endOffersTo (n : Host) (s : State) (h : Host) :
    Received h ((s.leases.filter fun m => m.holder == h && m.offeredTo n).map fun m => .offerLapsed m.id .targetGone) s
      (s.endOffersTo n) := by
  have folded : ∀ (ls : List Lease) (t : State),
      Received h ((ls.filter fun m => m.holder == h && m.offeredTo n).map fun m => .offerLapsed m.id .targetGone) t
        (ls.foldl (fun t l => t.endOfferTo n l) t) := by
    intro ls
    induction ls with
    | nil => exact fun t => .of_same rfl
    | cons l ls ih =>
      intro t
      have both := (received_endOfferTo n l t h).trans (ih (t.endOfferTo n l))
        (LeasesOnly.foldl (fun t l => endOfferTo_leasesOnly n l t) ls _).timestamp
      rw [List.filter_cons]
      split
      all_goals
        rename_i told
        simpa [told] using both
  exact folded s.leases s

/-- R56: the ends of offers reach no line and hand nothing on. -/
theorem endOffersTo_lines (n : Host) (s : State) :
    (s.endOffersTo n).lines = s.lines ∧ (s.endOffersTo n).arrivals = s.arrivals :=
  foldl_rel (rel := fun s t : State => t.lines = s.lines ∧ t.arrivals = s.arrivals)
    (g := fun t l => t.endOfferTo n l) (fun _ => ⟨rfl, rfl⟩) (fun h k => ⟨k.1.trans h.1, k.2.trans h.2⟩)
    (fun t l => by
      rw [endOfferTo_eq]
      split <;> exact ⟨rfl, rfl⟩) s.leases s

/-! ### The leases of the host -/

/-- R64: the board's states of the lines are not the part's to change. -/
theorem external_afterParking (s : State) (entries : List LineEntry) :
    (s.afterParking entries).external = s.external := by
  unfold State.afterParking
  rfl

theorem afterParkings_nil (s : State) : s.afterParkings [] = s := by simp only [State.afterParkings, List.foldl_nil]

theorem afterParkings_cons (s : State) (l : Lease) (ls : List Lease) :
    s.afterParkings (l :: ls) = (s.afterParking l.entries).afterParkings ls := by
  simp only [State.afterParkings, List.foldl_cons]

/-- R81, R82: what the parkings do depends on the lines and the board alone. -/
theorem afterParkings_congr (ls : List Lease) : ∀ {s t : State}, t.lines = s.lines → t.external = s.external →
    (t.afterParkings ls).lines = (s.afterParkings ls).lines ∧ parkingsChanges t ls = parkingsChanges s ls
      ∧ ∀ h, parkingsRecords h t ls = parkingsRecords h s ls := by
  induction ls with
  | nil =>
    intro s t lines _
    rw [afterParkings_nil, afterParkings_nil]
    exact ⟨lines, rfl, fun _ => rfl⟩
  | cons l ls ih =>
    intro s t lines external
    obtain ⟨parking, changes, faults⟩ := afterParking_congr lines external l.entries
    have board : (t.afterParking l.entries).external = (s.afterParking l.entries).external := by
      rw [external_afterParking, external_afterParking, external]
    obtain ⟨parkings, restChanges, restRecords⟩ := ih parking board
    rw [afterParkings_cons, afterParkings_cons]
    refine ⟨parkings, ?_, fun h => ?_⟩
    · rw [parkingsChanges, parkingsChanges, changes, restChanges]
    · rw [parkingsRecords, parkingsRecords, faults, restRecords]

/-- R114, R115, step 3: leases ended one after another by a teardown. -/
theorem foldl_endLease_spec (ls : List Lease) : ∀ s : State, (∀ l ∈ ls, EntriesOk l.entries) →
    (∀ i, (ls.foldl (fun t l => t.endLease l .teardown) s).line i = (s.afterParkings ls).line i)
      ∧ HandsOn (parkingsChanges s ls) s (ls.foldl (fun t l => t.endLease l .teardown) s)
      ∧ ∀ h, Received h (parkingsRecords h s ls) s (ls.foldl (fun t l => t.endLease l .teardown) s) := by
  induction ls with
  | nil =>
    intro s _
    rw [afterParkings_nil]
    exact ⟨fun _ => rfl, .of_same rfl, fun _ => .of_same rfl⟩
  | cons l ls ih =>
    intro s ok
    obtain ⟨parked, hands, received⟩ := endLease_spec (ok l (by simp)) .teardown s
    obtain ⟨restParked, restHands, restReceived⟩ := ih (s.endLease l .teardown) fun m hm => ok m (by simp [hm])
    obtain ⟨lines, changes, records⟩ := afterParkings_congr ls (s := s.afterParking l.entries)
      (State.lines_ext parked)
      ((endLease_leasesOnly l .teardown s).external.trans (external_afterParking s l.entries).symm)
    rw [List.foldl_cons, afterParkings_cons, parkingsChanges]
    refine ⟨fun i => (restParked i).trans (line_congr lines i), ?_, fun h => ?_⟩
    · rw [changes] at restHands
      exact hands.trans restHands
    · have first := received h
      have rest := restReceived h
      rw [records] at rest
      simp only [EndCause.holderReason, EndCause.targetReason, Option.map_none, Option.toList_none, ite_self,
        List.append_nil] at first
      rw [parkingsRecords]
      exact first.trans rest (LeasesOnly.foldl (fun t l => endLease_leasesOnly l .teardown t) ls _).timestamp

/-- R114, step 3: the leases that are left. -/
theorem leases_foldl_endLease (ls : List Lease) (s : State) :
    (ls.foldl (fun t l => t.endLease l .teardown) s).leases = s.leases.filter fun m => ls.all fun l => m.id != l.id := by
  induction ls generalizing s with
  | nil => simp
  | cons l ls ih =>
    rw [List.foldl_cons, ih, endLease_leases, List.filter_filter]
    exact List.filter_congr fun m _ => by simp [Bool.and_comm]

/-! ### The teardown up to the scan -/

section

variable {s : State} (law : LeaseTableLaw s) (n : Host)

include law

/-- The leases of host `n` end as the table has them before the teardown. -/
theorem shutOut_eq : s.shutOut n =
    (s.leasesOf n).foldl (fun t l => t.endLease l .teardown) ((s.dismissClaims n).endOffersTo n) := by
  have kept : ((s.dismissClaims n).endOffersTo n).leasesOf n = s.leasesOf n :=
    leasesOf_endOffersTo (s := s.dismissClaims n) law n
  rw [State.shutOut, State.endLeasesOf, kept]

/-- R114, R116: the leases of the other hosts stand, but for offers to host `n`. -/
theorem shutOut_leases :
    (s.shutOut n).leases = (s.leases.filter fun m => m.holder != n).map (Lease.withoutOfferTo n) := by
  have offers : ((s.dismissClaims n).endOffersTo n).leases = s.leases.map (Lease.withoutOfferTo n) :=
    endOffersTo_leases (s := s.dismissClaims n) law n
  rw [shutOut_eq law, leases_foldl_endLease, offers, List.filter_map]
  refine congrArg _ (List.filter_congr fun m hm => ?_)
  rw [Bool.eq_iff_iff, Function.comp_apply, List.all_eq_true]
  simp only [id_withoutOfferTo, bne_iff_ne, State.leasesOf, List.mem_filter, beq_iff_eq]
  exact ⟨fun h holder => h m ⟨hm, holder⟩ rfl, fun h l ⟨hl, holder⟩ same => h (law.eq_of_id hl hm same ▸ holder)⟩

/-- R82, R114, R115: the lines, the arrivals and the records of the other hosts. -/
theorem shutOut_spec :
    (∀ i, (s.shutOut n).line i = (s.afterParkings (s.leasesOf n)).line i)
      ∧ HandsOn (parkingsChanges s (s.leasesOf n)) s (s.shutOut n)
      ∧ ∀ h, Received h (((s.leases.filter fun m => m.holder == h && m.offer.map (fun o => o.target) == some n).map
            fun m => .offerLapsed m.id .targetGone) ++ parkingsRecords h s (s.leasesOf n)) s (s.shutOut n) := by
  have ok : ∀ l ∈ s.leasesOf n, EntriesOk l.entries := fun l hl => (law.fields (List.mem_of_mem_filter hl)).lines
  obtain ⟨parked, hands, received⟩ := foldl_endLease_spec (s.leasesOf n) ((s.dismissClaims n).endOffersTo n) ok
  have frame : LeasesOnly (s.dismissClaims n) ((s.dismissClaims n).endOffersTo n) := endOffersTo_leasesOnly n _
  obtain ⟨sameLines, sameArrivals⟩ := endOffersTo_lines n (s.dismissClaims n)
  obtain ⟨lines, changes, records⟩ := afterParkings_congr (s.leasesOf n) (s := s) sameLines frame.external
  have whole := shutOut_eq law n
  refine ⟨fun i => ?_, fun bs b e => ?_, fun h => ?_⟩
  · rw [whole]
    exact (parked i).trans (line_congr lines i)
  · rw [whole, ← changes]
    exact hands bs b (sameArrivals.trans e)
  · rw [whole, ← records]
    exact Received.trans (received_endOffersTo n (s.dismissClaims n) h) (received h)
      (LeasesOnly.foldl (fun t l => endLease_leasesOnly l .teardown t) _ _).timestamp

end

/-! ### The teardown -/

/-- R34: the scan grants waiting claims alone. -/
theorem Scanned.grants_subset {kept : List Lease} {waiting : List Claim} {grants : Grants} {s t : State}
    (h : Scanned kept waiting grants s t) : ∀ g ∈ grants, g.1 ∈ waiting := by
  obtain ⟨⟨pass, rfl, -, rfl, -⟩, -⟩ := h
  intro g hg
  obtain ⟨x, hx, made⟩ := List.mem_filterMap.mp hg
  obtain ⟨id, -, rfl⟩ := Option.map_eq_some_iff.mp made
  exact List.mem_map.mpr ⟨x, hx, rfl⟩

/-- R115: where the claims of host `n` are gone and the offers to it too, the scan leaves no lease with it. -/
theorem Scanned.host_absent {ls : List Lease} {claims : List Claim} {grants : Grants} {s t : State} {n : Host}
    (h : Scanned ((ls.filter fun m => m.holder != n).map (Lease.withoutOfferTo n)) (claims.filter fun c => c.host != n)
      grants s t) : ∀ m ∈ t.leases, m.holder ≠ n ∧ ∀ o ∈ m.offer, o.target ≠ n := by
  intro m hm
  have others := h.grants_subset
  obtain ⟨-, leases, -⟩ := h
  rcases List.mem_append.mp (leases.mem_iff.mp hm) with kept | granted
  · obtain ⟨l, hl, rfl⟩ := List.mem_map.mp kept
    rw [holder_withoutOfferTo]
    exact ⟨by simpa using (List.mem_filter.mp hl).2, target_withoutOfferTo n l⟩
  · obtain ⟨g, hg, rfl⟩ := List.mem_map.mp granted
    have other : g.1.host ≠ n := by simpa using (List.mem_filter.mp (others g hg)).2
    exact ⟨other, by simp [grantedLease]⟩

/-- R114 to R116, R151: all that a teardown does, in the words of `TornDown` up to the arrivals, which join the event's
list. -/
theorem teardown_spec {s : State} (law : LeaseTableLaw s) (n : Host) (supervisor : Option Host) :
    ∃ grants, Scanned ((s.leases.filter fun m => m.holder != n).map (Lease.withoutOfferTo n))
        (s.queue.filter fun c => c.host != n) grants s (s.teardown n supervisor)
      ∧ (s.teardown n supervisor).subs = (s.unsubscribeAll n).subs
      ∧ (∀ i, (s.teardown n supervisor).line i = { (s.afterParkings (s.leasesOf n)).line i with
          holder := holderAfter grants i ((s.afterParkings (s.leasesOf n)).line i).holder })
      ∧ HandsOn (parkingsChanges s (s.leasesOf n)) s (s.teardown n supervisor)
      ∧ (s.teardown n supervisor).eventQueue n = EventQueue.clear s.timestamp supervisor
      ∧ ∀ h, h ≠ n → ReceivedThenGrants h
          (((s.leases.filter fun m => m.holder == h && m.offer.map (fun o => o.target) == some n).map
              fun m => .offerLapsed m.id .targetGone) ++ parkingsRecords h s (s.leasesOf n)) grants s
          (s.teardown n supervisor) := by
  have frame := shutOut_leasesOnly n s
  have leases := shutOut_leases law n
  obtain ⟨parked, hands, received⟩ := shutOut_spec law n
  have time : (s.shutOut n).timestamp = s.timestamp := frame.timestamp
  rw [teardown_eq, time]
  generalize s.shutOut n = x at frame leases parked hands received time ⊢
  unfold LeasesOnly at frame
  rw [dismissClaims_frame] at frame
  have counter : x.leaseCounter = s.leaseCounter := by rw [frame]
  have subs : x.subs = s.subs := by rw [frame]
  let u := (x.unsubscribeAll n).updateQueue n fun _ => EventQueue.clear s.timestamp supervisor
  have queue : u.queue = s.queue.filter fun c => c.host != n := by
    change x.queue = _
    rw [frame]
  have leases : u.leases = (s.leases.filter fun m => m.holder != n).map (Lease.withoutOfferTo n) := leases
  obtain ⟨grants, scanned, bound, granted⟩ := scan_spec u
  rw [leases, queue] at scanned
  have quiet := scan_claimsOnly u
  refine ⟨grants, scanned.congr counter.symm rfl, ?_, fun i => ?_, fun bs b e => ?_, ?_, fun h other => ?_⟩
  · rw [show u.scan.subs = u.subs by rw [quiet]]
    exact congrArg (fun t => updateHost t n fun _ => Vector.replicate 24 none) subs
  · rw [← parked i]
    exact bound i
  · exact (scan_arrivals u).trans (hands bs b e)
  · have ungranted : (grants.filter fun g => g.1.host == n) = [] := List.filter_eq_nil_iff.mpr fun g hg => by
      simpa using (List.mem_filter.mp (scanned.grants_subset g hg)).2
    have last : u.scan.eventQueue n = u.eventQueue n := by
      have told := granted n
      rw [ReceivedThenGrants, ungranted] at told
      exact told
    have cleared : u.eventQueue n = EventQueue.clear s.timestamp supervisor :=
      (State.eventQueue_updateQueue _ n n _).trans (if_pos rfl)
    exact last.trans cleared
  · have same : u.eventQueue h = x.eventQueue h := (State.eventQueue_updateQueue _ n h _).trans (if_neg other)
    have before : Received h (((s.leases.filter fun m => m.holder == h && m.offeredTo n).map
        fun m => .offerLapsed m.id .targetGone) ++ parkingsRecords h s (s.leasesOf n)) s u := same.trans (received h)
    exact before.trans (granted h) quiet.timestamp

/-! ### DETACH and CLEAR_HOST -/

/-- R122: the subscriptions once those of host `n` are removed. -/
theorem subscription_unsubscribeAll (n h : Host) (i : Line) (s : State) :
    (s.unsubscribeAll n).subscription h i = if h = n then none else s.subscription h i := by
  unfold State.subscription State.unsubscribeAll
  dsimp only
  rw [updateHost_getElem]
  split
  · simp
  · rfl

/-- R113, R66: a row of the lease controller that tears a host down as one event, and answers its port OK with these data. -/
theorem exec_teardown {i : Instr} {s : State} {p n : Host} {cmd : Cmd} {tag : Byte} {supervisor : Option Host}
    {data : List Byte} {body : List Byte → State → State × Reply}
    (meaning : ∀ s, exec i s = s.takes (State.asOneEvent (State.leaseControllerTakes p cmd body)))
    (served : Served s p cmd tag) (law : LeaseTableLaw s)
    (hb : ∀ as rs, body (s.port p).params (s.servedAt p as rs)
      = ((s.servedAt p as rs).teardown n supervisor, ⟨.ok, data⟩)) :
    ∃ t, exec i s = .next t
      ∧ t = { s with
          leases := t.leases, leaseCounter := t.leaseCounter, queue := t.queue, lines := t.lines, queues := t.queues
          arrivals := t.arrivals, subs := t.subs, ports := t.ports, lastServed := p }
      ∧ TornDown n (EventQueue.clear s.timestamp supervisor) s t ∧ Answered p tag cmd .ok data s t := by
  let u := s.servedAt p (s.arrivals ++ [[]]) (s.reports ++ [[]])
  have run : body (s.port p).params u = (u.teardown n supervisor, ⟨.ok, data⟩) := hb _ _
  have spec := teardown_spec (s := u) law n supervisor
  have frame := teardown_frame n supervisor u
  have ports : (u.teardown n supervisor).ports = s.ports := teardown_ports u n supervisor
  generalize u.teardown n supervisor = w at run spec frame ports
  let v := w.updatePort p (PortState.placeResult tag cmd ⟨.ok, data⟩)
  have taken : State.leaseControllerTakes p cmd body
      { s with arrivals := s.arrivals ++ [[]], reports := s.reports ++ [[]] } = v := by
    have start : Served { s with arrivals := s.arrivals ++ [[]], reports := s.reports ++ [[]] } p cmd tag := served
    rw [leaseControllerTakes_served start]
    exact congrArg (fun r : State × Reply => r.1.updatePort p (PortState.placeResult tag cmd r.2)) run
  obtain ⟨grants, scanned, subs, lines, hands, cleared, received⟩ := spec
  obtain ⟨parkings, changes, records⟩ := afterParkings_congr (s.leasesOf n) (s := s) (t := u) rfl rfl
  unfold ControllerOnly at frame
  have arrivals : v.arrivals = s.arrivals ++ [parkingsChanges s (s.leasesOf n)] := by
    rw [← changes]
    exact hands s.arrivals [] rfl
  have reports : v.reports = s.reports ++ [[]] := congrArg State.reports frame
  have noReports : s.reports ++ (if ([] : List LevelChange) = [] then [] else [[]]) = s.reports := by simp
  have event := asOneEvent_of taken arrivals reports
  rw [noReports] at event
  refine ⟨_, by rw [meaning, takes_running served.1.1, event], ?_, ?_, ?_⟩
  · have whole : w = { s with
        leases := w.leases, leaseCounter := w.leaseCounter, queue := w.queue, lines := w.lines, queues := w.queues
        arrivals := w.arrivals, reports := s.reports ++ [[]], subs := w.subs, lastServed := p } := by
      rw [show w.subs = (u.unsubscribeAll n).subs from subs]
      exact frame
    have answered : v = { w with ports := v.ports } := rfl
    conv_lhs => rw [answered, whole]
    rfl
  · have subscription : ∀ h i, w.subscription h i = (u.unsubscribeAll n).subscription h i := fun h i =>
      congrArg (fun t : Vector (Vector (Option Subscription) 24) 4 => t[h][i]) subs
    refine ⟨grants, scanned.host_absent, scanned.congr rfl rfl, fun i => ?_, fun h i other => ?_, fun i => ?_, rfl,
      cleared, fun h other => ?_⟩
    · exact (subscription n i).trans ((subscription_unsubscribeAll n n i u).trans (if_pos rfl))
    · exact (subscription h i).trans ((subscription_unsubscribeAll n h i u).trans (if_neg other))
    · rw [← line_congr parkings i]
      exact lines i
    · rw [← records]
      exact Received.congr (received h other) rfl rfl rfl
  · exact (answered_placeResult (r := ⟨.ok, data⟩) ports).of_ports rfl

/-- R151: a queue that CLEAR_HOST empties holds the one CLEARED record. -/
theorem clear_supervisor (now : Timestamp) (p : Host) :
    EventQueue.clear now (some p) = ⟨[⟨.cleared p, 0, now⟩], 1, 255, 0, true, true⟩ :=
  arrive_of_room (q := EventQueue.reset) now (.cleared p) (by decide)

/-- Settles O38: both rows tear down the host that they name, and CLEAR_HOST of no host is refused. -/
theorem detachAndClearHostTearTheHostDown : Obligations.DetachAndClearHostTearTheHostDown := by
  intro s p tag law _ _
  refine ⟨fun served => ?_, fun served supervisor => ⟨fun n host => ?_, fun large => ?_⟩⟩
  · exact exec_teardown (i := .detach p) (supervisor := none) (body := State.detachBody p) (fun _ => rfl) served law
      fun as rs => rfl
  · rw [← clear_supervisor]
    refine exec_teardown (i := .clearHost p) (body := State.clearHostBody p) (fun _ => rfl) served law fun as rs => ?_
    have authority : (s.servedAt p as rs).isSupervisor p = true := isSupervisor_of supervisor
    have named : hostOf (param (s.port p).params 0).toNat = some n := by
      rw [show (param (s.port p).params 0).toNat = n.val from host]
      exact dif_pos n.isLt
    simp only [State.clearHostBody, authority, named]
    rfl
  · refine exec_kept (i := .clearHost p) (body := State.clearHostBody p) (r := Reply.refuse .badParam) (fun _ => rfl)
      (IsRow.controller rfl).oneEvent rfl served fun as rs => ?_
    have authority : (s.servedAt p as rs).isSupervisor p = true := isSupervisor_of supervisor
    have unnamed : hostOf (param (s.port p).params 0).toNat = none := dif_neg (Nat.not_lt.mpr large)
    simp only [State.clearHostBody, authority, unnamed]
    rfl

end Sys2Proof.Machine
end

section
/-! PROOF. The offer protocol: OFFER, ACCEPT and DECLINE as they are judged, and the ends of an offer that leave the lease
with its holder (R47 to R50, R53, R54). -/

namespace Sys2Proof.Machine

/-! ### A lease changed and one host told -/

/-- R7, R47, R53: a command of the lease controller whose body changes one lease and tells one host answers OK. -/
theorem exec_leaseChanged {i : Instr} {s : State} {p : Host} {cmd : Cmd} {tag : Byte} {id : Nat} {f : Lease → Lease}
    {k : Host} {e : Event} {body : List Byte → State → State × Reply}
    (meaning : ∀ s, exec i s = s.takes (State.leaseControllerTakes p cmd body)) (served : Served s p cmd tag)
    (hb : body (s.port p).params { s with lastServed := p } =
      ((State.updateLease id f { s with lastServed := p }).raise k e, Reply.ok)) :
    ∃ t, exec i s = .next t
      ∧ t = { s with leases := t.leases, queues := t.queues, ports := t.ports, lastServed := p }
      ∧ t.leases = s.leases.map (fun m => if m.id = id then f m else m)
      ∧ Received k [e] s t ∧ (∀ h, h ≠ k → t.eventQueue h = s.eventQueue h) ∧ Answered p tag cmd .ok [] s t := by
  obtain ⟨t, ht, frame, answered⟩ := exec_changed meaning served hb rfl
  have told : ∀ h, Received h (if h = k then [e] else []) s t := fun h =>
    (received_raise (State.updateLease id f { s with lastServed := p }) k e h).congr rfl (by rw [frame]) (by rw [frame])
  exact ⟨t, ht, by rw [frame]; rfl, by rw [frame]; rfl, by simpa using told k,
    fun h other => by simpa [Received, other] using told h, answered⟩

/-! ### OFFER -/

/-- R47: a number above 3 names no host. -/
theorem hostOf_of_large {n : Nat} (large : 3 < n) : hostOf n = none := dif_neg (Nat.not_lt.mpr large)

/-- R47: the number of a host names it. -/
theorem hostOf_val (h : Host) : hostOf h.val = some h := dif_pos h.isLt

section

variable {s : State} {p : Host} {ps : List Byte} {l : Lease}

/-- R47, check 2: the caller's own lease, for a target that is no host or the caller. -/
theorem offerCheck_badParam (held : s.heldLease p (param ps 0).toNat = .ok l)
    (target : 3 < (param ps 1).toNat ∨ (param ps 1).toNat = p.val) : s.offerCheck p ps = .error .badParam := by
  rcases target with large | own
  · simp only [State.offerCheck, held, hostOf_of_large large]
  · simp only [State.offerCheck, held, own, hostOf_val, if_pos]

/-- R47, checks 3 and 4: the caller's own lease, for another host. -/
theorem offerCheck_target {target : Host} (held : s.heldLease p (param ps 0).toNat = .ok l)
    (named : (param ps 1).toNat = target.val) (other : target ≠ p) : s.offerCheck p ps =
      if l.offer.isSome then .error .busy else if !s.allowsAll target l.entries then .error .denied
      else .ok (l, target) := by
  simp only [State.offerCheck, held, named, hostOf_val, if_neg other]

end

/-- R10, R47: OFFER answers what its checks refuse, and changes nothing. -/
theorem exec_offer_refused {s : State} {p : Host} {tag : Byte} {st : Status} (served : Served s p .offer tag)
    (check : s.offerCheck p (s.port p).params = .error st) :
    ∃ t, exec (.offer p) s = .next t ∧ t = { s with ports := t.ports, lastServed := p }
      ∧ Answered p tag .offer st [] s t := by
  have check : ∀ as rs, (s.servedAt p as rs).offerCheck p (s.port p).params = .error st := fun _ _ => check
  exact exec_kept (body := State.offerBody p) (r := Reply.refuse st) (fun _ => rfl) (.controller rfl) rfl served
    fun as rs => by simp only [State.offerBody, check]

/-- R12, R47, R50: some line of the entries excludes the host. -/
theorem not_allowsAll_iff {s : State} {h : Host} {es : List LineEntry} :
    s.allowsAll h es = false ↔ ∃ e ∈ es, HostSet.has (s.allowedOn e.line) h = false := by
  simp [State.allowsAll]

/-- Settles O31: each clause is the check of R47 that decides it, and the last is the offer made. -/
theorem offerIsJudgedAndMade : Obligations.OfferIsJudgedAndMade := by
  intro s p tag l served law hl id holder
  have held : s.heldLease p (param (s.port p).params 0).toNat = .ok l := by
    have held := heldLease_of_mem law hl
    rw [id, holder] at held
    exact held
  refine ⟨fun target => exec_offer_refused served (offerCheck_badParam held target), fun target named other => ?_⟩
  have check := offerCheck_target held named other
  refine ⟨fun offered => ?_, fun active excluded => ?_, fun active allowed => ?_⟩
  · rw [if_pos (Option.isSome_iff_ne_none.mpr offered)] at check
    exact exec_offer_refused served check
  · simp only [active, not_allowsAll_iff.mpr excluded, Option.isSome_none, Bool.false_eq_true, if_false, Bool.not_false,
      if_true] at check
    exact exec_offer_refused served check
  · simp only [active, allowsAll_iff.mpr allowed, Option.isSome_none, Bool.false_eq_true, if_false, Bool.not_true] at check
    have check : State.offerCheck { s with lastServed := p } p (s.port p).params = .ok (l, target) := check
    refine exec_leaseChanged (body := State.offerBody p) (f := fun m => { m with offer := some ⟨target, 200⟩ })
      (fun _ => rfl) served ?_
    simp only [State.offerBody, check, State.makeOffer, holder]
    rfl

/-! ### ACCEPT and DECLINE -/

section

variable {s : State} {p : Host} {l : Lease}

/-- R50, R53: id 0, and an id that names no live lease offered to the caller, find no offer. -/
theorem offeredLease_none {id : Nat} (law : LeaseTableLaw s)
    (absent : id = 0 ∨ ∀ l ∈ s.leases, l.id = id → l.offer.map (fun o => o.target) ≠ some p) :
    s.offeredLease p id = none := by
  refine Option.eq_none_iff_forall_ne_some.mpr fun l found => ?_
  obtain ⟨hl, named, offered⟩ := offeredLease_some found
  rcases absent with zero | absent
  · obtain ⟨⟨positive, -⟩, -⟩ := law.fields hl
    omega
  · exact absent l hl named offered

/-- R50, R53: a lease whose offer names the caller is found by its id. -/
theorem offeredLease_of_target (law : LeaseTableLaw s) (hl : l ∈ s.leases)
    (offered : l.offer.map (fun o => o.target) = some p) : s.offeredLease p l.id = some l := by
  obtain ⟨o, offer, rfl⟩ := Option.map_eq_some_iff.mp offered
  exact offeredLease_of_mem law hl offer

end

/-- R10, R50, R53: ACCEPT and DECLINE answer NO_OFFER where they find no offer to the caller, and change nothing. -/
theorem exec_noOffer {s : State} {p : Host} {tag : Byte} {i : Instr} {cmd : Cmd}
    (hi : i = .accept p ∧ cmd = .accept ∨ i = .decline p ∧ cmd = .decline) (served : Served s p cmd tag)
    (unoffered : s.offeredLease p (s.arg p 0) = none) :
    ∃ t, exec i s = .next t ∧ t = { s with ports := t.ports, lastServed := p }
      ∧ Answered p tag cmd .noOffer [] s t := by
  have unoffered : ∀ as rs, (s.servedAt p as rs).offeredLease p (param (s.port p).params 0).toNat = none :=
    fun _ _ => unoffered
  rcases hi with ⟨rfl, rfl⟩ | ⟨rfl, rfl⟩
  · exact exec_kept (body := State.acceptBody p) (r := Reply.refuse .noOffer) (fun _ => rfl) (.controller rfl) rfl served
      fun as rs => by simp only [State.acceptBody, unoffered]
  · exact exec_kept (body := State.declineBody p) (r := Reply.refuse .noOffer) (fun _ => rfl) (.controller rfl) rfl served
      fun as rs => by simp only [State.declineBody, unoffered]

/-- Settles O32: the two refusals of R50 leave the state to the answer, and the transfer of O33 answers OK. -/
theorem acceptIsJudged : Obligations.AcceptIsJudged := by
  intro s p tag served law
  refine ⟨fun absent => exec_noOffer (.inl ⟨rfl, rfl⟩) served (offeredLease_none law absent),
    fun l hl id offered => ⟨fun excluded => ?_, fun allowed => ?_⟩⟩
  · have found : ∀ as rs, (s.servedAt p as rs).offeredLease p (param (s.port p).params 0).toNat = some l := fun _ _ =>
      (congrArg (s.offeredLease p) id).symm.trans (offeredLease_of_target law hl offered)
    have denied : ∀ as rs, (s.servedAt p as rs).allowsAll p l.entries = false := fun _ _ =>
      not_allowsAll_iff.mpr excluded
    exact exec_kept (body := State.acceptBody p) (r := Reply.refuse .denied) (fun _ => rfl) (.controller rfl) rfl served
      fun as rs => by simp only [State.acceptBody, found, denied, Bool.not_false, if_true]
  · obtain ⟨o, offer, target⟩ := Option.map_eq_some_iff.mp offered
    obtain ⟨t, _, ht, -, -, -, -, -, answered⟩ :=
      acceptTransfersTheLease s p tag l o served law hl id offer target allowed
    exact ⟨t, ht, answered⟩

/-- Settles O34: the body finds no offer to the caller, or ends the one that the id names. -/
theorem declineReturnsTheLease : Obligations.DeclineReturnsTheLease := by
  intro s p tag served law
  refine ⟨fun absent => exec_noOffer (.inr ⟨rfl, rfl⟩) served (offeredLease_none law absent),
    fun l hl id offered => ?_⟩
  have found : State.offeredLease { s with lastServed := p } p (param (s.port p).params 0).toNat = some l :=
    (congrArg (s.offeredLease p) id).symm.trans (offeredLease_of_target law hl offered)
  exact exec_leaseChanged (body := State.declineBody p) (f := Lease.activated) (fun _ => rfl) served
    (by simp only [State.declineBody, found])

/-! ### The offer lapse -/

/-- R49, R54: a due lapse is found by the id of its lease. -/
theorem dueOfferLapse_of_mem {s : State} {l : Lease} {o : Offer} (law : LeaseTableLaw s) (hl : l ∈ s.leases)
    (offer : l.offer = some o) (due : o.remaining = 0) : s.dueOfferLapse l.id = some (l, o.target) := by
  simp only [State.dueOfferLapse, findLease_of_mem law.sorted hl, offer, if_pos due]

/-- R54: a lapse that is not due, or whose offer has ended, is not found. -/
theorem dueOfferLapse_none {s : State} {id : Nat}
    (notDue : ∀ l ∈ s.leases, l.id = id → ∀ o ∈ l.offer, o.remaining ≠ 0) : s.dueOfferLapse id = none := by
  unfold State.dueOfferLapse
  split
  · rename_i l found
    obtain ⟨hl, named⟩ := findLease_some found
    split
    · rename_i o offer
      exact if_neg (notDue l hl named o offer)
    · rfl
  · rfl

/-- Settles O35: the lapse finds its offer by the id of the lease, and holder and target are different hosts (R46). -/
theorem offerLapseReturnsTheLease : Obligations.OfferLapseReturnsTheLease := by
  intro s running law
  refine ⟨fun l o hl offer due => ?_, fun id notDue => ?_⟩
  · have apart : o.target ≠ l.holder := by
      obtain ⟨-, -, -, -, -, offers⟩ := law.fields hl
      exact (offers o offer).1
    let active : State := s.updateLease l.id Lease.activated
    let first : State := active.raise l.holder (.offerLapsed l.id .timeout)
    let last : State := first.raise o.target (.offerWithdrawn l.id .timeout)
    have told : ∀ h, Received h ((if h = l.holder then [.offerLapsed l.id .timeout] else [])
        ++ (if h = o.target then [.offerWithdrawn l.id .timeout] else [])) s last := fun h =>
      ((received_raise active l.holder _ h).trans (received_raise first o.target _ h) rfl).congr rfl rfl rfl
    refine ⟨last, ?_, rfl, rfl, by simpa [apart.symm] using told l.holder, by simpa [apart] using told o.target,
      fun h notHolder notTarget => by simpa [Received, notHolder, notTarget] using told h⟩
    simp only [exec, execOfferLapse, takes_running running, dueOfferLapse_of_mem law hl offer due]
    rfl
  · simp only [exec, execOfferLapse, takes_running running, dueOfferLapse_none notDue]

end Sys2Proof.Machine
end

section
/-! PROOF. Changes of level in flight (R66, R125, R128): which one is taken, what is left, and the arrivals of a line. -/

namespace Sys2Proof.Machine

/-! ### The change that is taken -/

/-- R66, R128: the change of line `i` to `v` is the first left of its event and the oldest of its line, and `rest` is what is
left when it is taken. -/
def TakenFrom (i : Line) (v : Level) (batches rest : List (List LevelChange)) : Prop :=
  ∃ older batch younger, batches = older ++ (⟨i, v⟩ :: batch) :: younger ∧ (∀ b ∈ older, ∀ c ∈ b, c.line ≠ i)
    ∧ rest = older ++ if batch = [] then younger else batch :: younger

section

variable {i : Line} {v : Level} {b : List LevelChange} {bs rest : List (List LevelChange)}

theorem not_takenFrom_nil : ¬ TakenFrom i v [] rest := by
  rintro ⟨older, batch, younger, split, -⟩
  simp at split

/-- The change taken stands first in the first list, or that list has no change of the line. -/
theorem takenFrom_cons : TakenFrom i v (b :: bs) rest ↔
    (∃ batch, b = ⟨i, v⟩ :: batch ∧ rest = if batch = [] then bs else batch :: bs)
      ∨ (∀ c ∈ b, c.line ≠ i) ∧ ∃ left, TakenFrom i v bs left ∧ rest = b :: left := by
  constructor
  · rintro ⟨older, batch, younger, split, clear, left⟩
    cases older with
    | nil =>
      cases split
      exact .inl ⟨batch, rfl, left⟩
    | cons o os =>
      cases split
      exact .inr ⟨clear b (by simp), _, ⟨os, batch, younger, rfl, fun o ho => clear o (by simp [ho]), rfl⟩, left⟩
  · rintro (⟨batch, rfl, left⟩ | ⟨clear, left, ⟨older, batch, younger, rfl, others, rfl⟩, rfl⟩)
    · exact ⟨[], batch, bs, rfl, by simp, left⟩
    · refine ⟨b :: older, batch, younger, rfl, fun o ho => ?_, rfl⟩
      rcases List.mem_cons.mp ho with rfl | ho
      · exact clear
      · exact others o ho

theorem takeChange_first (batch : List LevelChange) :
    takeChange i ((⟨i, v⟩ :: batch) :: bs) = some (v, if batch = [] then bs else batch :: bs) := by
  simp [takeChange]

theorem takeChange_clear (clear : ∀ c ∈ b, c.line ≠ i) :
    takeChange i (b :: bs) = (takeChange i bs).map fun r => (r.1, b :: r.2) := by
  cases b with
  | nil => simp only [takeChange]
  | cons c batch =>
    have first : c.line ≠ i := clear c (by simp)
    have later : (batch.any fun d => d.line == i) = false := by
      simpa using fun d hd => clear d (by simp [hd])
    simp only [takeChange, if_neg first, later, Bool.false_eq_true, if_false]

theorem takeChange_blocked {c d : LevelChange} {batch : List LevelChange} (first : c.line ≠ i) (hd : d ∈ batch)
    (later : d.line = i) : takeChange i ((c :: batch) :: bs) = none := by
  have blocked : (batch.any fun d => d.line == i) = true := by simpa using ⟨d, hd, later⟩
  simp only [takeChange, if_neg first, blocked, if_true]

/-- R66, R128: the model takes exactly that change. -/
theorem takeChange_iff : takeChange i bs = some (v, rest) ↔ TakenFrom i v bs rest := by
  induction bs generalizing rest with
  | nil => simp [takeChange, not_takenFrom_nil]
  | cons b bs ih =>
    rw [takenFrom_cons]
    by_cases clear : ∀ c ∈ b, c.line ≠ i
    · have notFirst : ∀ batch, b ≠ ⟨i, v⟩ :: batch := fun batch e => clear ⟨i, v⟩ (by simp [e]) rfl
      rw [takeChange_clear clear, Option.map_eq_some_iff]
      constructor
      · rintro ⟨⟨w, left⟩, taken, e⟩
        cases e
        exact .inr ⟨clear, left, ih.mp taken, rfl⟩
      · rintro (⟨batch, e, -⟩ | ⟨-, left, taken, rfl⟩)
        · exact absurd e (notFirst batch)
        · exact ⟨(v, left), ih.mpr taken, rfl⟩
    · obtain ⟨d, hd, line⟩ : ∃ c ∈ b, c.line = i := by simpa using clear
      cases b with
      | nil => cases hd
      | cons c batch =>
        obtain ⟨j, w⟩ := c
        by_cases first : j = i
        · subst first
          rw [takeChange_first, Option.some.injEq, Prod.mk.injEq]
          constructor
          · rintro ⟨rfl, left⟩
            exact .inl ⟨batch, rfl, left.symm⟩
          · rintro (⟨other, e, left⟩ | ⟨other, -⟩)
            · cases e
              exact ⟨rfl, left.symm⟩
            · exact absurd other clear
        · rcases List.mem_cons.mp hd with rfl | hd
          · exact absurd line first
          · rw [takeChange_blocked first hd line]
            constructor
            · intro e
              cases e
            · rintro (⟨other, e, -⟩ | ⟨other, -⟩)
              · cases e
                exact absurd rfl first
              · exact absurd other clear

end

/-! ### The changes of a line in flight -/

section

variable (i : Line)

theorem inFlight_append (as bs : List (List LevelChange)) : inFlight i (as ++ bs) = inFlight i as ++ inFlight i bs := by
  simp [inFlight]

theorem inFlight_cons (b : List LevelChange) (bs : List (List LevelChange)) :
    inFlight i (b :: bs) = inFlight i [b] ++ inFlight i bs := inFlight_append i [b] bs

theorem inFlight_change (c : LevelChange) (b : List LevelChange) :
    inFlight i [c :: b] = (if c.line = i then [c.level] else []) ++ inFlight i [b] := by
  by_cases h : c.line = i <;> simp [inFlight, h]

/-- Which lists the changes stand in has no part in those of one line. -/
theorem inFlight_congr {as bs : List (List LevelChange)} (h : bs.flatten = as.flatten) : inFlight i bs = inFlight i as := by
  unfold inFlight
  rw [h]

end

/-- R66, R128: the change taken is the oldest of its line, and those of every other line stay in their order. -/
theorem inFlight_takeChange {i : Line} {v : Level} {batches rest : List (List LevelChange)}
    (h : takeChange i batches = some (v, rest)) :
    inFlight i batches = v :: inFlight i rest ∧ ∀ j, j ≠ i → inFlight j rest = inFlight j batches := by
  obtain ⟨older, batch, younger, rfl, clear, rfl⟩ := takeChange_iff.mp h
  have left : ∀ j, inFlight j (older ++ if batch = [] then younger else batch :: younger)
      = inFlight j older ++ (inFlight j [batch] ++ inFlight j younger) := by
    intro j
    rw [inFlight_append]
    split
    · rename_i empty
      subst empty
      rfl
    · rw [inFlight_cons]
  have none : inFlight i older = [] := by
    simpa [inFlight] using clear
  refine ⟨?_, fun j hj => ?_⟩
  · rw [left, inFlight_append, inFlight_cons i (_ :: batch), inFlight_change, none, if_pos rfl]
    rfl
  · rw [left, inFlight_append, inFlight_cons j (_ :: batch), inFlight_change, if_neg (Ne.symm hj), List.nil_append]

/-! ### The arrival of a level -/

/-- R125, R126, R128: the EDGE record that a change of line `i` to `v` raises for host `h`, if its subscription matches. -/
def State.edgeEvents (s : State) (i : Line) (v : Level) (f : Filter) (h : Host) : List Event :=
  match s.subscription h i with
  | some x => if x.filter = f && x.mode.matchesEdge v then [.edge i v f] else []
  | none => []

section

variable (i : Line) (v : Level) (f : Filter)

theorem edgeFor_recordsOnly (s : State) (k : Host) : RecordsOnly s (s.edgeFor i v f k) := by
  unfold State.edgeFor
  split
  · split <;> rfl
  · rfl

theorem edgeEvents_edgeFor (s : State) (k h : Host) : (s.edgeFor i v f k).edgeEvents i v f h = s.edgeEvents i v f h := by
  rw [edgeFor_recordsOnly i v f s k]
  rfl

theorem received_edgeFor (s : State) (k h : Host) :
    Received h (if h = k then s.edgeEvents i v f h else []) s (s.edgeFor i v f k) := by
  by_cases same : h = k
  · subst same
    rw [if_pos rfl]
    unfold State.edgeEvents State.edgeFor
    cases s.subscription h i with
    | none => exact .of_same rfl
    | some x =>
      dsimp only
      split
      · simp [Received, State.eventQueue_raise]
      · exact .of_same rfl
  · rw [if_neg same]
    unfold State.edgeFor
    split
    · split
      · simp [Received, State.eventQueue_raise, same]
      · exact .of_same rfl
    · exact .of_same rfl

/-- R125, R128: a change tells each host what its own subscription asks for, and nothing else. -/
theorem received_raiseEdges (s : State) (h : Host) : Received h (s.edgeEvents i v f h) s (s.raiseEdges i v f) := by
  have folded : ∀ (hosts : List Host), hosts.Nodup → ∀ t : State,
      Received h (if h ∈ hosts then t.edgeEvents i v f h else []) t (hosts.foldl (State.edgeFor i v f) t) := by
    intro hosts
    induction hosts with
    | nil => exact fun _ t => .of_same rfl
    | cons k hosts ih =>
      intro nodup t
      obtain ⟨fresh, nodup⟩ := List.nodup_cons.mp nodup
      have rest := ih nodup (t.edgeFor i v f k)
      rw [edgeEvents_edgeFor] at rest
      have both := (received_edgeFor i v f t k h).trans rest
        (RecordsOnly.foldl (fun u m => edgeFor_recordsOnly i v f u m) hosts _).linesOnly.timestamp
      by_cases same : h = k
      · subst same
        simpa [fresh] using both
      · simpa [same] using both
  have all := folded allHosts (by decide) s
  rwa [if_pos (mem_allHosts h)] at all

end

theorem input_updateLine (s : State) (i j : Line) (f : InputRec → InputRec) :
    State.input { s with inputs := updateLine s.inputs i f } j = if j = i then f (s.input i) else s.input j :=
  updateLine_getElem s.inputs i j f

/-- R125: an arrival reaches the seen level of its line, the lines still awaited and the event queues alone. -/
theorem takeArrival_frame (i : Line) (v : Level) (s : State) :
    s.takeArrival i v = { s with
      inputs := updateLine s.inputs i fun r => { r with seen := v }, startUp := s.startUp.filter fun j => j != i
      queues := (s.takeArrival i v).queues } := raiseEdges_recordsOnly i v .raw _

/-- R125: an arrival is told to the hosts that watch the raw level of its line. -/
theorem received_takeArrival (i : Line) (v : Level) (s : State) (h : Host) :
    Received h (s.edgeEvents i v .raw h) s (s.takeArrival i v) := by
  have received := received_raiseEdges i v .raw { s with
    inputs := updateLine s.inputs i fun r => { r with seen := v }, startUp := s.startUp.filter fun j => j != i } h
  exact received.congr (s' := s) rfl rfl rfl

/-- Settles O48: the change taken is the one `takeChange_iff` finds, and its arrival is judged host by host. -/
theorem arrivalSetsTheSeenLevel : Obligations.ArrivalSetsTheSeenLevel := by
  refine ⟨fun x v batches rest h => inFlight_takeChange h, fun x v batches rest => takeChange_iff,
    fun s x none => ?_, fun s x v rest running taken => ?_⟩
  · simp only [exec, execArrival, State.takes, none, ite_self]
  · have frame := takeArrival_frame x v { s with arrivals := rest }
    refine ⟨State.takeArrival x v { s with arrivals := rest }, ?_, ?_, fun i => ?_, fun h => ?_⟩
    · simp only [exec, execArrival, takes_running running, taken]
    · rw [frame]
    · rw [frame]
      refine (input_updateLine s x i _).trans ?_
      by_cases same : i = x
      · subst same
        rfl
      · rw [if_neg same, if_neg same]
    · have received := received_takeArrival x v { s with arrivals := rest } h
      refine (congrArg (fun events => Received h events s _) ?_).mp (received.congr (s' := s) rfl rfl rfl)
      have watched : State.subscription { s with arrivals := rest } h x = s.subscription h x := rfl
      rw [State.edgeEvents, watched]
      rcases s.subscription h x with _ | ⟨_ | _ | _, _ | _⟩ <;> cases v <;> rfl

end Sys2Proof.Machine
end

section
/-! PROOF. What a command can do to the line records, to the arrivals in flight and to the seen levels: a few kinds of move of
one line each, and every command as a sequence of such moves. -/

namespace Sys2Proof.Machine

/-! ### Moves -/

/-- What no command reaches but a device reset and its end. -/
structure Standing where
  inReset    : Bool
  supervisor : Option Host
  busAddress : BitVec 7
  freeCount  : Nat
  pending    : List Instr

def State.standing (s : State) : Standing := ⟨s.inReset, s.supervisor, s.busAddress, s.freeCount, s.pending⟩

/-- R83, R88, R95: what one step of a command makes of a line record. `held` says that the line may be driven or parked by the
command: it was held before it. -/
inductive RecordMove (held : Prop) (r : LineRec) : LineRec → Prop where
  /-- R64, R67: the line is evaluated as it stands. -/
  | same : RecordMove held r r
  /-- R74: the output level of a PLAIN line is written. -/
  | level (v : Level) (h : held) (plain : r.function = .plain) : RecordMove held r (.settled r { r with level := v })
  /-- R90: an unfaulted mirror follows its source. -/
  | follow {source : Line} {invert : Bool} (v : Level) (h : r.function = .mirror source invert false) :
      RecordMove held r (.settled r { r with level := v })
  /-- R91: an unfaulted mirror faults. -/
  | fault {source : Line} {invert : Bool} (h : r.function = .mirror source invert false) :
      RecordMove held r (.settled r { r with function := .mirror source invert true })
  /-- R95: a pulse starts on a held line that is OUT. -/
  | pulse (v : Level) {duration : Nat} (h : held) (bound : r.holder ≠ none) (out : r.direction = .output)
      (range : duration ≤ 65535) :
      RecordMove held r (.settled r { r with level := v, function := .pulse v r.level duration })
  /-- R97: a pulse ends at its revert level. -/
  | complete {level revert : Level} {remaining : Nat} (h : r.function = .pulse level revert remaining) :
      RecordMove held r (.settled r { r with level := revert, function := .plain })
  /-- R76, R89: a held line is configured. -/
  | configure (x : LineSettings) {f : LineFunction} (level : Level) (h : held) (bound : r.holder ≠ none)
      (noPulse : ∀ level revert remaining, f ≠ .pulse level revert remaining) :
      RecordMove held r (r.configured x f level)
  /-- R81: a held line is parked. -/
  | park (f : Fallback) (h : held) : RecordMove held r (r.parked f)

/-- Nothing changes of what the laws of lines and arrivals speak of, but for the lists in which the arrivals stand, the
samples and filtered levels, and the subscriptions, of which none is added while an arrival of the end of device reset is
awaited (R133). -/
structure Beside (s t : State) : Prop where
  standing : t.standing = s.standing
  lines : t.lines = s.lines
  external : t.external = s.external
  seen : ∀ i, (t.input i).seen = (s.input i).seen
  arrivals : t.arrivals.flatten = s.arrivals.flatten
  startUp : t.startUp = s.startUp
  subs : s.startUp ≠ [] → (∀ h i, s.subscription h i = none) → ∀ h i, t.subscription h i = none

/-- The tables of which the laws of lines and arrivals speak. -/
structure LineSide where
  standing : Standing
  lines    : Vector LineRec 24
  external : Vector External 24
  inputs   : Vector InputRec 24
  arrivals : List (List LevelChange)
  startUp  : List Line
  subs     : Vector (Vector (Option Subscription) 24) 4

def State.lineSide (s : State) : LineSide :=
  ⟨s.standing, s.lines, s.external, s.inputs, s.arrivals, s.startUp, s.subs⟩

/-- One move of the line matrix or the input monitor; `held` are the lines that the command may drive or park. -/
inductive LineMove (held : Line → Prop) (s : State) : State → Prop where
  | beside {t : State} (h : Beside s t) : LineMove held s t
  /-- R66: a line record is written. -/
  | write (i : Line) {r : LineRec} (h : RecordMove (held i) (s.line i) r) : LineMove held s (s.writeLine i r)
  /-- R68, R69: a line is bound, or bound anew. -/
  | bind (i : Line) {b : Option Binding} (h : (s.line i).holder ≠ none → b ≠ none) :
      LineMove held s (s.setLine i { s.line i with holder := b })
  /-- R100: the drive test of a held line fails. -/
  | contest (i : Line) (bound : (s.line i).holder ≠ none) :
      LineMove held s (s.setLine i { s.line i with mismatch := true })
  /-- R96, R99: the timers of the lines count. -/
  | tick : LineMove held s { s with lines := mapTable LineRec.tick s.lines }
  /-- R64: the board changes a line. -/
  | external (i : Line) (x : External) : LineMove held s ((s.setExternal i x).writeLine i (s.line i))
  /-- R125: an arrival is taken. -/
  | arrive (i : Line) {v : Level} {rest : List (List LevelChange)} (h : takeChange i s.arrivals = some (v, rest)) :
      LineMove held s { s with
        arrivals := rest, inputs := updateLine s.inputs i fun r => { r with seen := v }
        startUp := s.startUp.filter fun j => j != i }

/-- Moves one after another. -/
def LineMoves (held : Line → Prop) (s t : State) : Prop := Relation.ReflTransGen (LineMove held) s t

section

variable {held : Line → Prop} {s t u : State}

theorem LineMoves.refl (held : Line → Prop) (s : State) : LineMoves held s s := Relation.ReflTransGen.refl

theorem LineMoves.trans (h : LineMoves held s t) (k : LineMoves held t u) : LineMoves held s u :=
  Relation.ReflTransGen.trans h k

theorem LineMove.moves (h : LineMove held s t) : LineMoves held s t := Relation.ReflTransGen.single h

theorem Beside.moves (h : Beside s t) : LineMoves held s t := (LineMove.beside h).moves

/-- What every move keeps, moves one after another keep. -/
theorem LineMoves.keep {P : State → Prop} (h : LineMoves held s t) (keeps : ∀ {u v}, LineMove held u v → P u → P v)
    (hs : P s) : P t := by
  induction h with
  | refl => exact hs
  | tail _ move ih => exact keeps move ih

theorem LineMoves.foldl {α : Type} {g : State → α → State} (step : ∀ s x, LineMoves held s (g s x)) (xs : List α)
    (s : State) : LineMoves held s (xs.foldl g s) :=
  foldl_rel (LineMoves.refl held) .trans step xs s

/-- The same of a fold whose steps keep what the next ones need. -/
theorem LineMoves.foldl_of {α : Type} {P : State → Prop} {g : State → α → State} {xs : List α}
    (step : ∀ s x, x ∈ xs → P s → LineMoves held s (g s x) ∧ P (g s x)) (hs : P s) :
    LineMoves held s (xs.foldl g s) := by
  induction xs generalizing s with
  | nil => exact .refl held s
  | cons x xs ih =>
    obtain ⟨move, kept⟩ := step s x (by simp) hs
    exact move.trans (ih (fun s y hy => step s y (by simp [hy])) kept)

/-! ### What stands -/

/-- A state that differs in tables that no law of lines or arrivals speaks of. -/
theorem Beside.of_same (h : t.lineSide = s.lineSide) : Beside s t := by
  simp only [State.lineSide, LineSide.mk.injEq] at h
  obtain ⟨standing, lines, external, inputs, arrivals, startUp, subs⟩ := h
  exact ⟨standing, lines, external, fun i => by simp only [State.input, inputs], by rw [arrivals], startUp,
    fun _ none h i => by simpa only [State.subscription, subs] using none h i⟩

theorem LineMoves.of_same (h : t.lineSide = s.lineSide) : LineMoves held s t := (Beside.of_same h).moves

/-- Moves start as well from a state with the same tables. -/
theorem LineMoves.from_same (k : LineMoves held t u) (h : t.lineSide = s.lineSide) : LineMoves held s u :=
  (LineMoves.of_same h).trans k

/-- Moves end as well in a state with the same tables. -/
theorem LineMoves.to_same (k : LineMoves held s t) (h : u.lineSide = t.lineSide) : LineMoves held s u :=
  k.trans (.of_same h)

theorem Beside.trans (h : Beside s t) (k : Beside t u) : Beside s u where
  standing := k.standing.trans h.standing
  lines := k.lines.trans h.lines
  external := k.external.trans h.external
  seen i := (k.seen i).trans (h.seen i)
  arrivals := k.arrivals.trans h.arrivals
  startUp := k.startUp.trans h.startUp
  subs starting none := k.subs (by rwa [h.startUp]) (h.subs starting none)

theorem RecordsOnly.beside (h : RecordsOnly s t) : Beside s t := by
  rw [h]
  exact .of_same rfl

theorem RecordsOnly.lineMoves (h : RecordsOnly s t) : LineMoves held s t := h.beside.moves

/-- R66: which of the lists in flight an event's changes stand in, no move asks. -/
theorem flatten_handOn (c : LevelChange) (bs : List (List LevelChange)) :
    (handOn c bs).flatten = bs.flatten ++ [c] := by
  induction bs with
  | nil => rfl
  | cons b bs ih =>
    cases bs with
    | nil => simp [handOn]
    | cons b' bs => simp [handOn, ih]

theorem flatten_dropEmptyLast (bs : List (List LevelChange)) : (dropEmptyLast bs).flatten = bs.flatten := by
  induction bs with
  | nil => rfl
  | cons b bs ih => 
    cases b with
    | nil =>
      cases bs with
      | nil => rfl
      | cons b' bs => simpa [dropEmptyLast] using ih
    | cons c b => simp [dropEmptyLast, ih]

end

/-- The lines held before a command: bound, or in the set of a live lease. -/
def State.held (s : State) (i : Line) : Prop := (s.line i).holder ≠ none ∨ s.lineHeld i = true

theorem held_of_entry {s : State} {l : Lease} (hl : l ∈ s.leases) {e : LineEntry} (he : e ∈ l.entries) :
    s.held e.line := .inr (List.any_eq_true.mpr ⟨l, hl, coversLine_iff.mpr ⟨e, he, rfl⟩⟩)

/-- R66, R128: the state in which the steps of one event are taken: the event's own lists are begun. -/
def State.opened (s : State) : State := { s with arrivals := s.arrivals ++ [[]], reports := s.reports ++ [[]] }

theorem opened_beside (s : State) : Beside s s.opened :=
  ⟨rfl, rfl, rfl, fun _ => rfl, by simp [State.opened], rfl, fun _ none => none⟩

theorem asOneEvent_beside (f : State → State) (s : State) : Beside (f s.opened) (State.asOneEvent f s) :=
  ⟨rfl, rfl, rfl, fun _ => rfl, flatten_dropEmptyLast _, rfl, fun _ none => none⟩

/-- R66: one event makes the moves of its steps. -/
theorem asOneEvent_lineMoves {held : Line → Prop} {f : State → State} {s : State}
    (steps : LineMoves held s.opened (f s.opened)) : LineMoves held s (State.asOneEvent f s) :=
  (opened_beside s).moves.trans (steps.trans (asOneEvent_beside f s).moves)

/-- R66: a command as one event makes the moves of its steps. -/
theorem oneEvent_lineMoves {f : State → State} (hf : ∀ s, LineMoves s.held s (f s)) (s : State) :
    LineMoves s.held s (State.asOneEvent f s) :=
  have steps : LineMoves s.held s.opened (f s.opened) := hf s.opened
  asOneEvent_lineMoves steps

/-! ### Shared operations -/

section

variable {held : Line → Prop} (s : State)

theorem faultMirror_lineMoves (source m : Line) : LineMoves held s (s.faultMirror source m) := by
  cases e : (s.line m).function with
  | mirror src invert fault =>
    cases fault with
    | false =>
      by_cases same : src = source
      · simp only [State.faultMirror, e, if_pos same]
        exact (LineMove.write m (.fault e)).moves.trans (raiseHolder_recordsOnly _ _ _).lineMoves
      · simp only [State.faultMirror, e, if_neg same]
        exact .refl held s
    | true =>
      simp only [State.faultMirror, e]
      exact .refl held s
  | plain | pulse =>
    simp only [State.faultMirror, e]
    exact .refl held s

theorem present_lineMoves (source : Line) : LineMoves held s (s.present source) := by
  unfold State.present
  split
  · exact .refl held s
  · exact .foldl (fun t m => faultMirror_lineMoves t source m) _ s

theorem followMirror_lineMoves (source : Line) (v : Level) (m : Line) :
    LineMoves held s (s.followMirror source v m) := by
  cases e : (s.line m).function with
  | mirror src invert fault =>
    cases fault with
    | false =>
      by_cases same : src = source
      · simp only [State.followMirror, e, if_pos same]
        have move := LineMove.write (held := held) m (.follow (xor v invert) e)
        rw [e] at move
        exact move.moves
      · simp only [State.followMirror, e, if_neg same]
        exact .refl held s
    | true =>
      simp only [State.followMirror, e]
      exact .refl held s
  | plain | pulse =>
    simp only [State.followMirror, e]
    exact .refl held s

/-- R100: a contested line is held. -/
theorem bound_of_contested {r : LineRec} {v d : Level} (h : r.contested v = some d) : r.holder ≠ none := by
  intro free
  simp [LineRec.contested, free] at h

theorem driveTest_lineMoves (i : Line) (v : Level) : LineMoves held s (s.driveTest i v) := by
  unfold State.driveTest
  split
  · rename_i d contested
    exact (LineMove.contest i (bound_of_contested contested)).moves.trans (raiseHolder_recordsOnly _ _ _).lineMoves
  · exact .refl held s

theorem parkLines_lineMoves {entries : List LineEntry} (h : ∀ e ∈ entries, held e.line) :
    LineMoves held s (s.parkLines entries) :=
  .trans (.foldl_of (P := fun _ => True) (fun _ e he _ => ⟨(LineMove.write e.line (.park _ (h e he))).moves, trivial⟩)
    trivial) (.foldl (fun t e => present_lineMoves t e.line) entries _)

theorem grant_lineMoves (h : Host) (entries : List LineEntry) (interval : Nat) :
    LineMoves held s (s.grant h entries interval) := by
  have bound : LineMoves held s (s.bindLines entries ⟨s.nextLeaseId, h⟩) :=
    .foldl (fun t e => (LineMove.bind e.line (b := some ⟨s.nextLeaseId, h⟩) (by simp)).moves) entries s
  exact bound.trans (.of_same rfl)

theorem scanFrom_lineMoves (claims : List Claim) :
    ∀ (older : List Claim) (s : State), LineMoves held s (State.scanFrom older claims s) := by
  induction claims with
  | nil => exact fun _ _ => .of_same rfl
  | cons c rest ih =>
    intro older s
    unfold State.scanFrom
    split
    · exact ((grant_lineMoves s _ _ _).trans (raise_recordsOnly _ _ _).lineMoves).trans (ih older _)
    · exact ih _ s

theorem scan_lineMoves : LineMoves held s s.scan := scanFrom_lineMoves s.queue [] s

theorem scanIf_lineMoves (removed : Bool) : LineMoves held s (s.scanIf removed) := by
  cases removed
  · exact .refl held s
  · exact scan_lineMoves s

theorem removeClaims_lineMoves (p : Claim → Bool) (reason : Option Reason) :
    LineMoves held s (s.removeClaims p reason) := by
  rw [removeClaims_frame]
  exact .of_same rfl

theorem updateLease_lineMoves (id : Nat) (f : Lease → Lease) : LineMoves held s (s.updateLease id f) :=
  .of_same rfl

theorem endLease_lineMoves {l : Lease} (h : ∀ e ∈ l.entries, held e.line) (cause : EndCause) :
    LineMoves held s (s.endLease l cause) := by
  have notices := (withdrawOffer_recordsOnly l cause s).trans (noticeLoss_recordsOnly l cause _)
  exact (notices.lineMoves.trans (parkLines_lineMoves _ h)).trans (.of_same rfl)

theorem endLeaseAndScan_lineMoves {l : Lease} (hl : l ∈ s.leases) (cause : EndCause) :
    LineMoves s.held s (s.endLeaseAndScan l cause) :=
  (endLease_lineMoves s (fun _ he => held_of_entry hl he) cause).trans (scan_lineMoves _)

theorem transfer_lineMoves (l : Lease) (h : Host) : LineMoves held s (s.transfer l h) := by
  have rebound : LineMoves held (s.updateLease l.id fun m => { m.activated.renewed with holder := h }) _ :=
    .foldl (fun t (e : LineEntry) => (LineMove.bind e.line (s := t)
      (b := (t.line e.line).holder.map fun b => { b with host := h }) (by simp)).moves) l.entries _
  exact ((updateLease_lineMoves s _ _).trans rebound).trans (raise_recordsOnly _ _ _).lineMoves

theorem endOfferTo_lineMoves (n : Host) (l : Lease) : LineMoves held s (s.endOfferTo n l) := by
  rw [endOfferTo_eq]
  split
  · exact (updateLease_lineMoves s _ _).trans (raise_recordsOnly _ _ _).lineMoves
  · exact .refl held s

/-- R56: the ends of offers leave the line sets of the leases. -/
theorem entries_endOffersTo {n : Host} {l : Lease} (hl : l ∈ (s.endOffersTo n).leases) :
    ∃ m ∈ s.leases, m.entries = l.entries := by
  unfold State.endOffersTo at hl
  rw [leases_foldl_endOfferTo, List.mem_map] at hl
  obtain ⟨m, hm, rfl⟩ := hl
  refine ⟨m, hm, ?_⟩
  split <;> rfl

theorem teardown_lineMoves (n : Host) (supervisor : Option Host) : LineMoves s.held s (s.teardown n supervisor) := by
  have dismissed : LineMoves s.held s (s.dismissClaims n) := removeClaims_lineMoves s _ none
  have offers : LineMoves s.held (s.dismissClaims n) ((s.dismissClaims n).endOffersTo n) :=
    .foldl (fun t l => endOfferTo_lineMoves t n l) _ _
  have ends : LineMoves s.held ((s.dismissClaims n).endOffersTo n) (s.shutOut n) :=
    .foldl_of (P := fun _ => True) (fun t l hl _ => by
      obtain ⟨m, hm, same⟩ := entries_endOffersTo _ (List.mem_of_mem_filter hl)
      exact ⟨endLease_lineMoves t (fun e he => held_of_entry hm (same ▸ he)) .teardown, trivial⟩) trivial
  have unsubscribed : Beside (s.shutOut n) ((s.shutOut n).unsubscribeAll n) :=
    ⟨rfl, rfl, rfl, fun _ => rfl, rfl, rfl, fun _ none h i => by
      rw [subscription_unsubscribeAll]
      split
      · rfl
      · exact none h i⟩
  rw [teardown_eq]
  exact ((dismissed.trans (offers.trans ends)).trans unsubscribed.moves).trans
    (((updateQueue_recordsOnly n _ _).lineMoves).trans (scan_lineMoves _))

end

/-! ### Owners -/

/-- The body of a command makes moves of the line matrix and the input monitor. -/
def BodyLineMoves (body : List Byte → State → State × Reply) : Prop := ∀ ps s, LineMoves s.held s (body ps s).1

theorem ownerTakes_lineMoves_at {held : Line → Prop} {p : Host} {cmd : Cmd} {applies : List Byte → Bool}
    {body : List Byte → State → State × Reply} {s : State} (h : ∀ ps, LineMoves held s (body ps s).1) :
    LineMoves held s (s.ownerTakes p cmd applies body) := by
  unfold State.ownerTakes
  split
  · exact (h _).trans (.of_same rfl)
  · exact .refl _ s

theorem ownerTakes_lineMoves {p : Host} {cmd : Cmd} {applies : List Byte → Bool}
    {body : List Byte → State → State × Reply} (h : BodyLineMoves body) (s : State) :
    LineMoves s.held s (s.ownerTakes p cmd applies body) := ownerTakes_lineMoves_at fun ps => h ps s

theorem leaseControllerTakes_lineMoves {p : Host} {cmd : Cmd} {body : List Byte → State → State × Reply}
    (h : BodyLineMoves body) (s : State) : LineMoves s.held s (s.leaseControllerTakes p cmd body) := by
  unfold State.leaseControllerTakes
  split
  · refine ownerTakes_lineMoves (fun ps t => ?_) s
    have steps : LineMoves t.held { t with lastServed := p } (body ps { t with lastServed := p }).1 :=
      h ps { t with lastServed := p }
    exact steps.from_same rfl
  · exact .refl _ s

/-- A body that reaches event queues at most. -/
theorem BodyLineMoves.of_records {body : List Byte → State → State × Reply}
    (h : ∀ ps s, RecordsOnly s (body ps s).1) : BodyLineMoves body := fun ps s => (h ps s).lineMoves

/-- A body that changes the lease table and raises records at most. -/
theorem BodyLineMoves.of_same {body : List Byte → State → State × Reply}
    (h : ∀ ps s, (body ps s).1.lineSide = s.lineSide) : BodyLineMoves body := fun ps s => .of_same (h ps s)

/-! ### The commands on leases and claims -/

section

variable (caller : Host)

theorem claimBody_lineMoves : BodyLineMoves (State.claimBody caller) := by
  intro ps s
  unfold State.claimBody
  split
  · exact .refl _ s
  · split
    · exact grant_lineMoves s _ _ _
    · exact .of_same rfl
    · exact .refl _ s

theorem cancelBody_lineMoves : BodyLineMoves (State.cancelBody caller) := by
  intro ps s
  unfold State.cancelBody
  split
  · exact .refl _ s
  · split
    · exact (removeClaims_lineMoves s _ none).trans (scan_lineMoves _)
    · exact .refl _ s

theorem releaseBody_lineMoves : BodyLineMoves (State.releaseBody caller) := by
  intro ps s
  unfold State.releaseBody
  rcases heldLease_cases s caller (param ps 0).toNat with ⟨-, e⟩ | ⟨l, found, ⟨-, e⟩ | ⟨-, e⟩⟩
  · rw [e]
    exact .refl _ s
  · rw [e]
    exact .refl _ s
  · rw [e]
    exact endLeaseAndScan_lineMoves s (findLease_some found).1 .release

theorem renewBody_lineMoves : BodyLineMoves (State.renewBody caller) := by
  refine .of_same fun ps s => ?_
  unfold State.renewBody
  split <;> rfl

theorem renewAllBody_lineMoves : BodyLineMoves (State.renewAllBody caller) := .of_same fun _ _ => rfl

theorem queryLeaseBody_lineMoves : BodyLineMoves State.queryLeaseBody := by
  refine .of_same fun ps s => ?_
  unfold State.queryLeaseBody
  split
  · rfl
  · split <;> rfl

theorem offerBody_lineMoves : BodyLineMoves (State.offerBody caller) := by
  refine .of_same fun ps s => ?_
  unfold State.offerBody
  split <;> rfl

theorem acceptBody_lineMoves : BodyLineMoves (State.acceptBody caller) := by
  intro ps s
  unfold State.acceptBody
  split
  · exact .refl _ s
  · split
    · exact .refl _ s
    · exact ((transfer_lineMoves s _ _).trans (removeClaims_lineMoves _ _ _)).trans (scanIf_lineMoves _ _)

theorem declineBody_lineMoves : BodyLineMoves (State.declineBody caller) := by
  refine .of_same fun ps s => ?_
  unfold State.declineBody
  split <;> rfl

theorem revokeBody_lineMoves : BodyLineMoves (State.revokeBody caller) := by
  intro ps s
  unfold State.revokeBody
  split
  · exact .refl _ s
  · split
    · exact .refl _ s
    · rename_i l found
      exact endLeaseAndScan_lineMoves s (findLease_some found).1 .revoke

theorem reserveBody_lineMoves : BodyLineMoves (State.reserveBody caller) := by
  intro ps s
  unfold State.reserveBody
  split
  · exact .refl _ s
  · split
    · exact .refl _ s
    · split
      · exact .refl _ s
      · rename_i a _
        have replaced : LineMoves s.held s (s.reserveLines (paramMask ps 0) a) := .of_same rfl
        exact (replaced.trans (removeClaims_lineMoves _ _ _)).trans (scanIf_lineMoves _ _)

theorem detachBody_lineMoves : BodyLineMoves (State.detachBody caller) := fun _ s => teardown_lineMoves s caller none

theorem clearHostBody_lineMoves : BodyLineMoves (State.clearHostBody caller) := by
  intro ps s
  unfold State.clearHostBody
  split
  · exact .refl _ s
  · split
    · exact .refl _ s
    · exact teardown_lineMoves s _ _

/-! ### The commands on lines -/

/-- R71: what the line matrix's holder check finds where it refuses nothing. -/
theorem holderCheck_none {s : State} {lease : Nat} {named : List Line} (h : s.holderCheck caller lease named = none) :
    ∀ i ∈ named, (s.line i).holder = some ⟨lease, caller⟩ := by
  unfold State.holderCheck at h
  split at h
  · cases h
  · split at h
    · rename_i all
      simpa using all
    · cases h

theorem nodup_maskLines (m : LineMask) : (maskLines m).Nodup := allLines_nodup.filter _

/-- R74: the function of a line has no part in a write of an output level. -/
theorem function_writeLevel (levels : LineMask) (s : State) (i j : Line) :
    ((s.writeLevel levels i).line j).function = (s.line j).function := by
  have line := line_driveLine (s := s) (i := i) (r := { s.line i with level := levels.getLsbD i.val }) rfl rfl j
  refine (congrArg LineRec.function line).trans ?_
  split
  · rename_i same
    rw [same]
    rfl
  · rfl

theorem setLevelBody_lineMoves : BodyLineMoves (State.setLevelBody caller) := by
  intro ps s
  unfold State.setLevelBody
  split
  · exact .refl _ s
  · rename_i passed
    unfold State.setLevelCheck at passed
    split at passed
    · cases passed
    · split at passed
      · cases passed
      · rename_i owned
        split at passed
        · rename_i plain
          refine .foldl_of (P := fun t => ∀ i ∈ maskLines (paramMask ps 1), (t.line i).function = .plain)
            (fun t i hi plain => ⟨?_, fun j hj => ?_⟩) (by simpa using plain)
          · have held : s.held i := .inl (by simp [holderCheck_none caller owned i hi])
            exact (LineMove.write i (.level _ held (plain i hi))).moves
          · rw [function_writeLevel]
            exact plain j hj
        · cases passed

/-- R75: what CONFIGURE has checked of its line where it refuses nothing. -/
theorem configureCheck_ok {s : State} {ps : List Byte} {x : LineSettings} (h : s.configureCheck caller ps = .ok x) :
    (s.line x.line).holder = some ⟨(param ps 0).toNat, caller⟩ ∧ (s.line x.line).pulsing = false := by
  unfold State.configureCheck at h
  split at h
  · split at h
    · cases h
    · rename_i owned
      split at h
      · cases h
      · rename_i idle
        cases h
        exact ⟨holderCheck_none caller owned _ (by simp), by simpa using idle⟩
  · cases h

theorem configureBody_lineMoves : BodyLineMoves (State.configureBody caller) := by
  intro ps s
  unfold State.configureBody
  split
  · exact .refl _ s
  · rename_i x passed
    have bound : (s.line x.line).holder ≠ none := by simp [(configureCheck_ok caller passed).1]
    exact (LineMove.write x.line (.configure x _ (.inl bound) bound (by simp))).moves.trans (present_lineMoves _ _)

theorem configureMirrorBody_lineMoves : BodyLineMoves (State.configureMirrorBody caller) := by
  intro ps s
  unfold State.configureMirrorBody
  split
  · exact .refl _ s
  · rename_i x passed
    have bound : (s.line x.line).holder ≠ none := by simp [(configureCheck_ok caller passed).1]
    have held : s.held x.line := .inl bound
    split
    · exact .refl _ s
    · rename_i m _
      refine .trans ?_ (present_lineMoves _ x.line)
      split
      · refine .from_same (t := s.raise caller (.mirrorFault x.line m.1)) (LineMove.moves ?_) rfl
        exact .write x.line (.configure x _ held bound fun _ _ _ => LineFunction.noConfusion)
      · exact (LineMove.write x.line (.configure x _ held bound fun _ _ _ => LineFunction.noConfusion)).moves

/-- R180: a 16-bit number is at most 65535. -/
theorem param16_le (ps : List Byte) (k : Nat) : param16 ps k ≤ 65535 := by
  have low := param_le ps k
  have high := param_le ps (k + 1)
  unfold param16
  omega

/-- R94: what PULSE has checked of its line where it refuses nothing. -/
theorem pulseCheck_ok {s : State} {ps : List Byte} {i : Line} {v : Level} (h : s.pulseCheck caller ps = .ok (i, v)) :
    (s.line i).holder = some ⟨(param ps 0).toNat, caller⟩ ∧ (s.line i).direction = .output := by
  unfold State.pulseCheck at h
  split at h
  · split at h
    · cases h
    · split at h
      · cases h
      · rename_i owned
        split at h
        · cases h
        · split at h
          · cases h
          · rename_i out
            cases h
            refine ⟨holderCheck_none caller owned _ (by simp), ?_⟩
            cases e : (s.line i).direction with
            | input => exact absurd e out
            | output => rfl
  · cases h

theorem pulseBody_lineMoves : BodyLineMoves (State.pulseBody caller) := by
  intro ps s
  unfold State.pulseBody
  split
  · exact .refl _ s
  · rename_i r passed
    obtain ⟨i, v⟩ := r
    obtain ⟨owned, out⟩ := pulseCheck_ok caller passed
    have bound : (s.line i).holder ≠ none := by simp [owned]
    exact (LineMove.write i (.pulse v (.inl bound) bound out (param16_le ps 3))).moves

theorem queryLineBody_lineMoves : BodyLineMoves State.queryLineBody := by
  refine .of_records fun ps s => ?_
  unfold State.queryLineBody
  split <;> rfl

theorem attentionBody_lineMoves : BodyLineMoves (State.attentionBody caller) := by
  refine .of_records fun ps s => ?_
  unfold State.attentionBody
  split <;> rfl

/-- R122: the entries of a table once those of some lines are replaced. -/
theorem foldl_updateLine {α : Type} (lines : List Line) (x : α) (t : Vector α 24) (i : Line) :
    (lines.foldl (fun u j => updateLine u j fun _ => x) t)[i] = if i ∈ lines then x else t[i] := by
  induction lines generalizing t with
  | nil => simp
  | cons j lines ih =>
    rw [List.foldl_cons, ih, updateLine_getElem]
    by_cases same : i = j <;> simp [same]

/-- R123, R124: the subscriptions once those of one host on the lines of a mask are replaced. -/
theorem subscription_writeSubscriptions (h k : Host) (m : LineMask) (x : Option Subscription) (s : State) (i : Line) :
    (s.writeSubscriptions h m x).subscription k i =
      if k = h ∧ m.getLsbD i.val = true then x else s.subscription k i := by
  unfold State.subscription State.writeSubscriptions
  dsimp only
  rw [updateHost_getElem]
  by_cases same : k = h
  · subst same
    rw [if_pos rfl, foldl_updateLine]
    simp [mem_maskLines]
  · simp [same]

/-- R124: UNSUBSCRIBE adds no subscription. -/
theorem unsubscribeBody_beside (ps : List Byte) (s : State) : Beside s (State.unsubscribeBody caller ps s).1 := by
  unfold State.unsubscribeBody
  split
  · exact .of_same rfl
  · refine ⟨rfl, rfl, rfl, fun _ => rfl, rfl, rfl, fun _ none h i => ?_⟩
    rw [subscription_writeSubscriptions]
    split
    · rfl
    · exact none h i

/-- R123: SUBSCRIBE is taken where no arrival of the end of device reset is awaited. -/
theorem subscribeBody_beside {ps : List Byte} {s : State} (started : s.startUp = []) :
    Beside s (State.subscribeBody caller ps s).1 := by
  rw [subscribeBody_frame]
  exact ⟨rfl, rfl, rfl, fun _ => rfl, rfl, rfl, fun starting => absurd started starting⟩

end

/-! ### Ticks, reports and reset -/

theorem completePulse_lineMoves {held : Line → Prop} {s : State} {i : Line} {level revert : Level} {remaining : Nat}
    (h : (s.line i).function = .pulse level revert remaining) : LineMoves held s (s.completePulse i revert) :=
  (LineMove.write i (.complete h)).moves.trans (raiseHolder_recordsOnly _ _ _).lineMoves

theorem takeReport_lineMoves {held : Line → Prop} (i : Line) (v : Level) (s : State) :
    LineMoves held s (s.takeReport i v) :=
  (LineMoves.foldl (fun t m => followMirror_lineMoves t i v m) allLines s).trans (driveTest_lineMoves _ i v)

theorem takeArrival_lineMoves {held : Line → Prop} {i : Line} {v : Level} {rest : List (List LevelChange)} {s : State}
    (taken : takeChange i s.arrivals = some (v, rest)) :
    LineMoves held s (State.takeArrival i v { s with arrivals := rest }) :=
  (LineMove.arrive i taken).moves.trans (raiseEdges_recordsOnly i v .raw _).lineMoves

/-- R121: the seen level of a line stands where its samples or its filtered level change. -/
theorem Beside.inputs (s : State) (i : Line) {f : InputRec → InputRec} (hf : ∀ r, (f r).seen = r.seen) :
    Beside s { s with inputs := updateLine s.inputs i f } where
  standing := rfl
  lines := rfl
  external := rfl
  seen j := by
    rw [input_updateLine]
    split
    · rename_i same
      rw [same, hf]
    · rfl
  arrivals := rfl
  startUp := rfl
  subs _ none := none

theorem lineSide_reports (s : State) (rs : List (List LevelChange)) :
    State.lineSide { s with reports := rs } = s.lineSide := rfl

theorem lineSide_tickWaits (o : Owner) (s : State) : (s.tickWaits o).lineSide = s.lineSide := rfl

theorem changeFiltered_beside (i : Line) (v : Level) (s : State) : Beside s (s.changeFiltered i v) := by
  have changed := Beside.inputs s i (f := fun r => { r with filtered := v }) fun _ => rfl
  exact (changed.trans (raiseEdges_recordsOnly i v .filtered _).beside).trans (.of_same (lineSide_reports _ _))

/-- R127, R128: a sample tick reaches samples and filtered levels, reports and event queues alone. -/
theorem sampleLine_beside (s : State) (i : Line) : Beside s (s.sampleLine i) := by
  have sampled := Beside.inputs s i (f := InputRec.sample) fun _ => rfl
  unfold State.sampleLine
  dsimp only
  split
  · exact sampled.trans (changeFiltered_beside i _ _)
  · exact sampled

theorem sampleAll_lineMoves (s : State) : LineMoves s.held s s.sampleAll :=
  asOneEvent_lineMoves (.foldl (fun u i => (sampleLine_beside u i).moves) allLines _)

theorem tick_lineMoves (order : List Line) (s : State) : LineMoves s.held s (s.tick order) := by
  unfold State.tick
  split
  · exact .refl _ s
  · have counted : LineMoves s.held { s with lines := mapTable LineRec.tick s.lines }
        (s.countTick.tickWaits .lineMatrix) := .of_same rfl
    exact (LineMove.tick.moves.trans counted).trans (.foldl (fun t i => driveTest_lineMoves t i _) _ _)

/-! ### Every command -/

/-- What a command can do: nothing at all, moves after device reset, a device reset, its end, or a change of the board while
it is in force. A free value may be used besides (log entry 1). -/
inductive Happens (s : State) : State → Prop where
  | stands (n : Nat) : Happens s { s with freeCount := n }
  | runs {t : State} (running : s.inReset = false) (moves : LineMoves s.held s t) : Happens s t
  | resets (n : Nat) : Happens s { s.enterReset with freeCount := n }
  | starts (x : Straps) (inReset : s.inReset = true) : Happens s (s.leaveReset x)
  | boards (i : Line) (x : External) (inReset : s.inReset = true) : Happens s (s.setExternal i x)

theorem takes_happens {f : State → State} (hf : ∀ s, LineMoves s.held s (f s)) {s t : State} (h : s.takes f = .next t) :
    Happens s t := by
  cases inReset : s.inReset with
  | true =>
    rw [takes_inReset inReset] at h
    cases h
    exact .stands s.freeCount
  | false =>
    rw [takes_running inReset] at h
    cases h
    exact .runs inReset (hf s)

theorem portEvent_happens {p : Host} {f : PortState → PortState} {s t : State} (h : s.portEvent p f = .next t) :
    Happens s t := takes_happens (f := fun u => u.updatePort p fun q => f q.takeTimeout) (fun _ => .of_same rfl) h

/-- R67, R105, R156: the straps as they are sampled. -/
def State.strapped (s : State) (x : Straps) : State :=
  { s with inReset := false, supervisor := Straps.supervisorPort x, busAddress := Straps.address x }

theorem evaluateLines_lineMoves {held : Line → Prop} (s : State) : LineMoves held s s.evaluateLines :=
  .foldl (fun _ i => asOneEvent_lineMoves (LineMove.write i .same).moves) allLines s

theorem pulseReset_happens (ns : Nat) (s : State) : Happens s (s.pulseReset ns) := by
  unfold State.pulseReset State.shortPulse
  dsimp only
  split
  · exact .resets s.freeCount
  · split
    · exact .stands s.freeCount
    · split
      · exact .resets (s.freeCount + 1)
      · exact .stands (s.freeCount + 1)

/-- R64, R66: the board changes a line, and its raw level is evaluated. -/
theorem externalChange_lineMoves {held : Line → Prop} (i : Line) (x : External) (s : State) :
    LineMoves held s (State.asOneEvent (fun t => t.writeLine i (t.line i)) (s.setExternal i x)) := by
  have move : LineMove held s.opened ((s.opened.setExternal i x).writeLine i (s.opened.line i)) := .external i x
  exact (opened_beside s).moves.trans (move.moves.trans (asOneEvent_beside _ (s.setExternal i x)).moves)

/-- R23: a lease whose expiry is due is live. -/
theorem dueExpiry_mem {s : State} {id : Nat} {l : Lease} (h : s.dueExpiry id = some l) : l ∈ s.leases := by
  unfold State.dueExpiry at h
  split at h
  · rename_i m found
    split at h
    · cases h
      exact (findLease_some found).1
    · cases h
  · cases h

/-- Every command and event does one of these. -/
theorem exec_happens {i : Instr} {s t : State} (h : exec i s = .next t) : Happens s t := by
  cases i with
  | deviceReset cause =>
    cases h
    cases cause with
    | powerOn => exact .resets s.freeCount
    | rstLow ns => exact pulseReset_happens ns s
  | deviceResetEnd x =>
    cases h
    split
    · exact .starts x ‹_›
    · exact .stands s.freeCount
  | millisecondTick order => exact takes_happens (tick_lineMoves order) h
  | settleExpiry i =>
    simp only [exec, execSettleExpiry] at h
    refine takes_happens (fun u => ?_) h
    split
    · exact tick_lineMoves [i] u
    · exact .refl _ u
  | renewExpiry id =>
    simp only [exec, execRenewExpiry] at h
    refine takes_happens (fun u => ?_) h
    split
    · rename_i l due
      have live : l ∈ u.opened.leases := dueExpiry_mem due
      exact asOneEvent_lineMoves (held := u.held) (endLeaseAndScan_lineMoves u.opened live .expiry)
    · exact .refl _ u
  | waitLapse ticket =>
    simp only [exec, execWaitLapse] at h
    refine takes_happens (fun u => ?_) h
    split
    · exact (removeClaims_lineMoves u _ _).trans (scan_lineMoves _)
    · exact .refl _ u
  | offerLapse id =>
    simp only [exec, execOfferLapse] at h
    refine takes_happens (fun u => ?_) h
    split
    · exact .of_same rfl
    · exact .refl _ u
  | pulseCompletion i =>
    simp only [exec, execPulseCompletion] at h
    refine takes_happens (fun u => ?_) h
    split
    · rename_i level revert ends
      have pulse : (u.opened.line i).function = .pulse level revert 0 := ends
      exact asOneEvent_lineMoves (completePulse_lineMoves pulse)
    all_goals exact .refl _ u
  | busTimeout p | busError p c | startCondition p | stopCondition p | addressByte p b | commandFrame p bs scl
  | responseRead p as scl => exact portEvent_happens h
  | claim p => exact takes_happens (leaseControllerTakes_lineMoves (claimBody_lineMoves p)) h
  | cancelClaim p => exact takes_happens (leaseControllerTakes_lineMoves (cancelBody_lineMoves p)) h
  | release p => exact takes_happens (oneEvent_lineMoves (leaseControllerTakes_lineMoves (releaseBody_lineMoves p))) h
  | renew p => exact takes_happens (leaseControllerTakes_lineMoves (renewBody_lineMoves p)) h
  | renewAll p => exact takes_happens (leaseControllerTakes_lineMoves (renewAllBody_lineMoves p)) h
  | queryLease p => exact takes_happens (leaseControllerTakes_lineMoves queryLeaseBody_lineMoves) h
  | offer p => exact takes_happens (leaseControllerTakes_lineMoves (offerBody_lineMoves p)) h
  | accept p => exact takes_happens (leaseControllerTakes_lineMoves (acceptBody_lineMoves p)) h
  | decline p => exact takes_happens (leaseControllerTakes_lineMoves (declineBody_lineMoves p)) h
  | revoke p => exact takes_happens (oneEvent_lineMoves (leaseControllerTakes_lineMoves (revokeBody_lineMoves p))) h
  | reserve p => exact takes_happens (leaseControllerTakes_lineMoves (reserveBody_lineMoves p)) h
  | detach p => exact takes_happens (oneEvent_lineMoves (leaseControllerTakes_lineMoves (detachBody_lineMoves p))) h
  | clearHost p =>
    exact takes_happens (oneEvent_lineMoves (leaseControllerTakes_lineMoves (clearHostBody_lineMoves p))) h
  | setLevel p => exact takes_happens (oneEvent_lineMoves (ownerTakes_lineMoves (setLevelBody_lineMoves p))) h
  | configure p => exact takes_happens (oneEvent_lineMoves (ownerTakes_lineMoves (configureBody_lineMoves p))) h
  | configureMirror p =>
    exact takes_happens (oneEvent_lineMoves (ownerTakes_lineMoves (configureMirrorBody_lineMoves p))) h
  | pulse p => exact takes_happens (oneEvent_lineMoves (ownerTakes_lineMoves (pulseBody_lineMoves p))) h
  | readLines p => exact takes_happens (ownerTakes_lineMoves (.of_same fun _ _ => rfl)) h
  | queryLine p => exact takes_happens (ownerTakes_lineMoves queryLineBody_lineMoves) h
  | externalStateChange i x =>
    cases h
    split
    · exact .boards i x ‹_›
    · rename_i inReset
      exact .runs (by simpa using inReset) (externalChange_lineMoves i x s)
  | filteredReport i =>
    simp only [exec, execFilteredReport] at h
    refine takes_happens (fun u => ?_) h
    split
    · exact (asOneEvent_lineMoves (takeReport_lineMoves i _ _)).from_same (lineSide_reports _ _)
    · exact .refl _ u
  | arrival i =>
    simp only [exec, execArrival] at h
    refine takes_happens (fun u => ?_) h
    split
    · exact takeArrival_lineMoves ‹_›
    · exact .refl _ u
  | sampleTick =>
    simp only [exec, execSampleTick] at h
    refine takes_happens (fun u => ?_) h
    split
    · exact .refl _ u
    · exact (sampleAll_lineMoves u).to_same (lineSide_tickWaits _ _)
  | subscribe p =>
    simp only [exec, execSubscribe] at h
    refine takes_happens (fun u => ?_) h
    split
    · rename_i started
      refine ownerTakes_lineMoves_at (fun ps => ?_)
      exact (subscribeBody_beside p (List.isEmpty_iff.mp started)).moves
    · exact .refl _ u
  | unsubscribe p =>
    exact takes_happens (ownerTakes_lineMoves fun ps v => (unsubscribeBody_beside p ps v).moves) h
  | poll p => exact takes_happens (ownerTakes_lineMoves (.of_same fun _ _ => rfl)) h
  | attention p => exact takes_happens (ownerTakes_lineMoves (attentionBody_lineMoves p)) h

end Sys2Proof.Machine
end

section
/-! PROOF. The end of device reset (R67, R105, R156): the straps, and every line evaluated once against the board. -/

namespace Sys2Proof.Machine

/-! ### One event of the line matrix -/

/-- Only line records, arrivals, event queues and ports differ. -/
def LinesAndPorts (s t : State) : Prop :=
  t = { s with lines := t.lines, arrivals := t.arrivals, queues := t.queues, ports := t.ports }

theorem LinesOnly.withPorts {s t : State} (h : LinesOnly s t) : LinesAndPorts s t := by
  unfold LinesAndPorts
  rw [h]

/-- R66: an event that reaches lines, queues and ports, and hands on the changes `cs`, leaves them as one list. -/
theorem asOneEvent_lines {f : State → State} {s t : State} {cs : List LevelChange} (hf : f s.opened = t)
    (frame : LinesAndPorts s.opened t) (hands : HandsOn cs s.opened t) :
    State.asOneEvent f s = { s with
      lines := t.lines, queues := t.queues, ports := t.ports
      arrivals := s.arrivals ++ if cs = [] then [] else [cs] } := by
  have arrivals : t.arrivals = s.arrivals ++ [cs] := hands s.arrivals [] rfl
  have reports : t.reports = s.reports ++ [[]] := by rw [frame]; rfl
  rw [asOneEvent_of hf arrivals reports, frame]
  simp [State.opened]

/-- R66: the changes such an event hands on are those that its lines show. -/
theorem asOneEvent_handedOn {f : State → State} {s t : State} {lines : List Line} (hf : f s.opened = t)
    (frame : LinesAndPorts s.opened t) (hands : HandsOn (rawChanges lines s.opened t) s.opened t) :
    HandedOn lines s (State.asOneEvent f s) := by
  have event := asOneEvent_lines hf frame hands
  have changes : rawChanges lines s (State.asOneEvent f s) = rawChanges lines s.opened t :=
    rawChanges_congr (fun _ _ => rfl) fun i _ => by rw [event]; rfl
  rw [HandedOn, changes, event]

/-! ### The evaluation of the lines -/

/-- R66, R67: a line record evaluated under external state `x`. -/
def LineRec.evaluated (x : External) (r : LineRec) : LineRec :=
  { r with raw := rawLevel x r, keeper := if rawLevel x r = r.raw then r.keeper else rawLevel x r }

/-- R66: the arrival that the evaluation of line `i` makes, if its raw level moves, in a list of its own. -/
def State.evaluation (s : State) (i : Line) : List (List LevelChange) :=
  if rawLevel s.external[i] (s.line i) = (s.line i).raw then [] else [[⟨i, rawLevel s.external[i] (s.line i)⟩]]

section

variable (s : State)

theorem line_evaluated (i j : Line) : (s.writeLine i (s.line i)).line j =
    if j = i then (s.line j).evaluated s.external[j] else s.line j := by
  rw [line_writeLine]
  split
  · rename_i same
    rw [same]
    rfl
  · rfl

/-- R67: the evaluation of one line reaches its record and the arrivals alone. -/
theorem evaluateLine_eq (i : Line) : s.evaluateLine i =
    { s with lines := (s.writeLine i (s.line i)).lines, arrivals := s.arrivals ++ s.evaluation i } := by
  have lines : (s.opened.writeLine i (s.opened.line i)).lines = (s.writeLine i (s.line i)).lines :=
    State.lines_ext fun j => (line_evaluated s.opened i j).trans (line_evaluated s i j).symm
  have changes : rawChanges [i] s.opened (s.opened.writeLine i (s.opened.line i)) = (s.evaluation i).flatten := by
    rw [rawChanges_singleton, line_evaluated, if_pos rfl]
    change (if rawLevel s.external[i] (s.line i) = (s.line i).raw then [] else _) = _
    unfold State.evaluation
    split <;> rfl
  have handed : (if (s.evaluation i).flatten = [] then [] else [(s.evaluation i).flatten]) = s.evaluation i := by
    unfold State.evaluation
    split <;> simp
  have event := asOneEvent_lines (f := fun t => t.writeLine i (t.line i)) rfl (writeLine_linesOnly i _ s.opened).withPorts
    (handsOn_writeLine rfl)
  rw [changes, handed, lines, queues_writeLine, (writeLine_linesOnly i _ s.opened).ports] at event
  exact event

theorem line_evaluateLine (i j : Line) :
    (s.evaluateLine i).line j = if j = i then (s.line j).evaluated s.external[j] else s.line j := by
  rw [evaluateLine_eq]
  exact line_evaluated s i j

/-- R67: the evaluation of some lines, each once: their records, and an arrival for each that moves. -/
theorem evaluate_foldl {lines : List Line} (nodup : lines.Nodup) :
    lines.foldl State.evaluateLine s = { s with
        lines := (lines.foldl State.evaluateLine s).lines, arrivals := s.arrivals ++ lines.flatMap s.evaluation } 
      ∧ ∀ j, (lines.foldl State.evaluateLine s).line j =
          if j ∈ lines then (s.line j).evaluated s.external[j] else s.line j := by
  have external : ∀ (t : State) i, (t.evaluateLine i).external = t.external := fun t i => by rw [evaluateLine_eq]
  refine ⟨?_, fun j => line_foldl (f := fun x i r => r.evaluated x[i]) external (fun t i j => ?_) nodup s j⟩
  · induction lines generalizing s with
    | nil => simp
    | cons i lines ih =>
      obtain ⟨fresh, nodup⟩ := List.nodup_cons.mp nodup
      have others : lines.flatMap (s.evaluateLine i).evaluation = lines.flatMap s.evaluation := by
        refine List.flatMap_congr fun j hj => ?_
        have other : j ≠ i := fun same => fresh (same ▸ hj)
        unfold State.evaluation
        rw [external, line_evaluateLine, if_neg other]
      rw [List.foldl_cons, List.flatMap_cons, ← List.append_assoc, ← others]
      refine (ih (s.evaluateLine i) nodup).trans ?_
      rw [evaluateLine_eq s i]
  · rw [line_evaluateLine]
    split
    · rename_i same
      rw [same]
    · rfl

end

/-! ### The end of device reset -/

/-- R67: every line is evaluated. -/
theorem evaluateLines_eq (s : State) : s.evaluateLines =
    { s with lines := s.evaluateLines.lines, arrivals := s.arrivals ++ allLines.flatMap s.evaluation } :=
  (evaluate_foldl s allLines_nodup).1

theorem line_evaluateLines (s : State) (i : Line) : s.evaluateLines.line i = (s.line i).evaluated s.external[i] :=
  ((evaluate_foldl s allLines_nodup).2 i).trans (if_pos (mem_allLines i))

theorem leaveReset_evaluateLines (s : State) (x : Straps) : s.leaveReset x =
    { (s.strapped x).evaluateLines with
      startUp := allLines.filter fun i => ((s.strapped x).evaluateLines.line i).raw } := rfl

theorem line_startUp (s : State) (ls : List Line) (i : Line) : State.line { s with startUp := ls } i = s.line i := rfl

theorem line_leaveReset (s : State) (x : Straps) (i : Line) :
    (s.leaveReset x).line i = (s.line i).evaluated s.external[i] := by
  rw [leaveReset_evaluateLines, line_startUp]
  exact line_evaluateLines (s.strapped x) i

/-- R67: what the end of device reset leaves of the lines, the arrivals and the rest. -/
theorem leaveReset_eq (s : State) (x : Straps) : s.leaveReset x = { s with
    inReset := false, supervisor := Straps.supervisorPort x, busAddress := Straps.address x
    lines := (s.leaveReset x).lines, arrivals := s.arrivals ++ allLines.flatMap s.evaluation
    startUp := allLines.filter fun i => ((s.line i).evaluated s.external[i]).raw } := by
  have started : (allLines.filter fun i => ((s.strapped x).evaluateLines.line i).raw)
      = allLines.filter fun i => ((s.line i).evaluated s.external[i]).raw :=
    List.filter_congr fun i _ => by rw [line_evaluateLines]; rfl
  have frame := evaluateLines_eq (s.strapped x)
  rw [leaveReset_evaluateLines, started]
  generalize (s.strapped x).evaluateLines = t at frame
  rw [frame]
  rfl

/-- R65: a line with its reset record drives nothing and has no pull, so that the board's HIGH alone raises its level. -/
theorem rawLevel_reset (x : External) : rawLevel x LineRec.reset = decide (x = .high) := by cases x <;> rfl

/-- R67: a line with its reset record, evaluated. -/
theorem evaluated_reset (x : External) : LineRec.reset.evaluated x =
    { LineRec.reset with raw := decide (x = .high), keeper := decide (x = .high) } := by cases x <;> rfl

/-- R156: the address straps add 0 to 3 to the bus address. -/
theorem toNat_address (x : Straps) : (Straps.address x).toNat = 0x38 + x.ads.val := by
  have := x.ads.isLt
  simp only [Straps.address, BitVec.toNat_add, BitVec.toNat_ofNat]
  omega

/-- R189: while device reset is in force each line has its reset record. -/
theorem ResetLaw.line {s : State} (law : ResetLaw s) (inReset : s.inReset = true) (i : Line) :
    s.line i = LineRec.reset := by
  rw [law inReset]
  exact line_reset i

/-- Settles O16: the lines are evaluated from their reset records, each in a list of its own. -/
theorem deviceResetEndSamplesStrapsAndLines : Obligations.DeviceResetEndSamplesStrapsAndLines := by
  intro s x
  refine ⟨fun running => ?_, fun inReset law => ⟨s.leaveReset x, ?_, ?_, ?_, ?_, fun i => ?_, ?_, ?_⟩⟩
  · simp only [exec, execDeviceResetEnd, running, Bool.false_eq_true, if_false]
  · simp only [exec, execDeviceResetEnd, inReset, if_true]
  · rw [leaveReset_eq]
  · rw [leaveReset_eq]
    rfl
  · rw [leaveReset_eq]
    exact toNat_address x
  · rw [line_leaveReset, law.line inReset, evaluated_reset]
  all_goals
    have started : (s.leaveReset x).startUp = allLines.filter fun i => decide (s.external[i] = .high) := by
      rw [leaveReset_eq]
      refine List.filter_congr fun i _ => ?_
      rw [law.line inReset, evaluated_reset]
  · exact started
  · have arrived : ∀ i, s.evaluation i = if decide (s.external[i] = .high) then [[⟨i, true⟩]] else [] := by
      intro i
      unfold State.evaluation
      rw [law.line inReset, rawLevel_reset]
      cases decide (s.external[i] = .high) <;> rfl
    have arrivals : (s.leaveReset x).arrivals = s.arrivals ++ allLines.flatMap s.evaluation := by rw [leaveReset_eq]
    rw [arrivals, started, List.flatMap_congr fun i _ => arrived i, ← flatMap_filter, List.map_eq_flatMap]

/-! ### The board -/

/-- R64: the external state of a line after the board changes one. -/
theorem external_setExternal (s : State) (i j : Line) (x : External) :
    (s.setExternal i x).external[j] = if j = i then x else s.external[j] :=
  updateLine_getElem s.external i j fun _ => x

/-- R63: a record that is only evaluated changes no driven value. -/
theorem after_self (x : External) (r : LineRec) : LineRec.after x r r = r.evaluated x := by
  simp [LineRec.after, LineRec.evaluated]

/-- Settles O46: the change is one event that evaluates the line under its new external state. -/
theorem externalChangeMovesTheRawLevel : Obligations.ExternalChangeMovesTheRawLevel := by
  intro s x e
  refine ⟨fun running => ?_, fun inReset => ⟨s.setExternal x e, ?_, rfl, fun i => external_setExternal s x i e⟩⟩
  · let u := (s.setExternal x e).opened.writeLine x ((s.setExternal x e).opened.line x)
    have frame : LinesOnly (s.setExternal x e).opened u := writeLine_linesOnly x _ _
    have hands : HandsOn (rawChanges [x] _ u) (s.setExternal x e).opened u := handsOn_writeLine rfl
    have event := asOneEvent_lines (f := fun t => t.writeLine x (t.line x)) rfl frame.withPorts hands
    have handed := asOneEvent_handedOn (f := fun t => t.writeLine x (t.line x)) rfl frame.withPorts hands
    refine ⟨State.asOneEvent (fun t => t.writeLine x (t.line x)) (s.setExternal x e), ?_, ?_, fun i => ?_, fun i => ?_,
      handed⟩
    · simp only [exec, execExternalStateChange, running, Bool.false_eq_true, if_false]
    · have queues : u.queues = s.queues := queues_writeLine _ _ _
      have ports : u.ports = s.ports := frame.ports
      rw [event, queues, ports]
      rfl
    · rw [event]
      exact external_setExternal s x i e
    · rw [event]
      refine (line_evaluated (s.setExternal x e).opened x i).trans ?_
      split
      · rename_i same
        rw [after_self]
        exact congrArg (LineRec.evaluated · (s.line i)) ((external_setExternal s x i e).trans (if_pos same))
      · rfl
  · simp only [exec, execExternalStateChange, inReset, if_true]

end Sys2Proof.Machine
end

section
/-! PROOF. The laws of the line records and of the arrivals after every step (R61, R65 to R67, R83, R95, R99, R121, R125,
R133), move by move, and what no command reaches. -/

namespace Sys2Proof.Machine

/-! ### What no command reaches -/

theorem LinesOnly.standing {s t : State} (h : LinesOnly s t) : t.standing = s.standing := by
  unfold LinesOnly at h
  rw [h]
  rfl

theorem LineMove.standing {held : Line → Prop} {s t : State} (h : LineMove held s t) : t.standing = s.standing := by
  cases h with
  | beside h => exact h.standing
  | write i _ => exact (writeLine_linesOnly i _ s).standing
  | external i x => exact (writeLine_linesOnly i _ (s.setExternal i x)).standing
  | bind | contest | tick | arrive => rfl

theorem LineMoves.standing {held : Line → Prop} {s t : State} (h : LineMoves held s t) : t.standing = s.standing :=
  h.keep (P := fun u => u.standing = s.standing) (fun move same => move.standing.trans same) rfl

theorem LineMoves.inReset {held : Line → Prop} {s t : State} (h : LineMoves held s t) : t.inReset = s.inReset :=
  congrArg Standing.inReset h.standing

/-- No command reaches the commands that wait. -/
theorem Happens.pending {s t : State} (h : Happens s t) : t.pending = s.pending := by
  cases h with
  | runs _ moves => exact congrArg Standing.pending moves.standing
  | starts x _ => rw [leaveReset_eq]
  | stands | resets | boards => rfl

/-- Every command has a next state. -/
theorem exec_next (i : Instr) (s : State) : ∃ t, exec i s = .next t := by
  cases i <;> exact ⟨_, rfl⟩

/-- R189: every command but those of reset and of the board is an event that device reset holds off. -/
theorem exec_takes {i : Instr} (noReset : ∀ c, i ≠ .deviceReset c) (noEnd : ∀ x, i ≠ .deviceResetEnd x)
    (noChange : ∀ l e, i ≠ .externalStateChange l e) : ∃ f, ∀ s, exec i s = s.takes f := by
  cases i with
  | deviceReset c => exact absurd rfl (noReset c)
  | deviceResetEnd x => exact absurd rfl (noEnd x)
  | externalStateChange l e => exact absurd rfl (noChange l e)
  | _ => exact ⟨_, fun _ => rfl⟩

/-- Settles O2: every arm of `exec` answers a next state, and what each does leaves the queue of commands. -/
theorem everyCommandHasANextStateAndLeavesTheQueue : Obligations.EveryCommandHasANextStateAndLeavesTheQueue := by
  intro i s
  obtain ⟨t, ht⟩ := exec_next i s
  refine ⟨⟨t, ht, (exec_happens ht).pending⟩, fun inReset noReset noEnd noChange => ?_⟩
  obtain ⟨f, meaning⟩ := exec_takes noReset noEnd noChange
  rw [meaning, takes_inReset inReset]

/-- Every step is what its command does, on a state that differs in the queue of commands alone. -/
theorem step_happens {s t : State} (h : step s = .next t) : ∃ rest, Happens { s with pending := rest } t := by
  unfold step at h
  split at h
  · cases h
    exact ⟨s.pending, .stands s.freeCount⟩
  · rename_i c rest _
    exact ⟨rest, exec_happens h⟩

/-! ### One line -/

/-- What a move makes of the record of one line, as the external state of the line goes from `x` to `y`. -/
inductive RecordStep (held : Prop) (x : External) (r : LineRec) : External → LineRec → Prop where
  | stand : RecordStep held x r x r
  | write (y : External) {r' : LineRec} (h : RecordMove held r r') : RecordStep held x r y (r'.evaluated y)
  | bind {b : Option Binding} (h : r.holder ≠ none → b ≠ none) : RecordStep held x r x { r with holder := b }
  | contest (bound : r.holder ≠ none) : RecordStep held x r x { r with mismatch := true }
  | tick : RecordStep held x r x r.tick

theorem line_writeLine_eq (s : State) (i j : Line) (r : LineRec) :
    (s.writeLine i r).line j = if j = i then r.evaluated s.external[i] else s.line j := line_writeLine s i j r

theorem LineMove.recordStep {held : Line → Prop} {s t : State} (h : LineMove held s t) (j : Line) :
    RecordStep (held j) s.external[j] (s.line j) t.external[j] (t.line j) := by
  cases h with
  | beside h =>
    rw [line_congr h.lines, h.external]
    exact .stand
  | write i move =>
    rw [line_writeLine_eq, (writeLine_linesOnly i _ s).external]
    split
    · rename_i same
      subst same
      exact .write _ move
    · exact .stand
  | external i x =>
    rw [line_writeLine_eq, (writeLine_linesOnly i _ (s.setExternal i x)).external]
    split
    · rename_i same
      subst same
      exact .write _ .same
    · rename_i other
      rw [external_setExternal, if_neg other]
      exact .stand
  | bind i bound =>
    rw [State.line_setLine]
    split
    · rename_i same
      subst same
      exact .bind bound
    · exact .stand
  | contest i bound =>
    rw [State.line_setLine]
    split
    · rename_i same
      subst same
      exact .contest bound
    · exact .stand
  | tick =>
    have line : State.line { s with lines := mapTable LineRec.tick s.lines } j = (s.line j).tick :=
      mapTable_getElem LineRec.tick s.lines j
    rw [line]
    exact .tick
  | arrive => exact .stand

/-- A law of single lines that every record step keeps, every move keeps. -/
theorem LineMove.keep_lines {held : Line → Prop} {Ok : External → LineRec → Prop} {s t : State} (h : LineMove held s t)
    (keeps : ∀ {j x r y r'}, RecordStep (held j) x r y r' → Ok x r → Ok y r')
    (law : ∀ j : Line, Ok s.external[j] (s.line j)) (j : Line) : Ok t.external[j] (t.line j) :=
  keeps (h.recordStep j) (law j)

section

variable {held : Prop} {r r' : LineRec}

/-- R66: the raw and keeper level follow a write, and are none of its settings. -/
theorem RecordMove.levels (h : RecordMove held r r') : r'.raw = r.raw ∧ r'.keeper = r.keeper := by
  have settled : ∀ new : LineRec, (LineRec.settled r new).raw = new.raw ∧ (LineRec.settled r new).keeper = new.keeper := by
    intro new
    unfold LineRec.settled
    split <;> exact ⟨rfl, rfl⟩
  cases h with
  | same | configure => exact ⟨rfl, rfl⟩
  | level | follow | fault | pulse | complete => exact settled _
  | park f _ =>
    have kept := settled (f.apply r.unfunctioned)
    cases f <;> exact kept

/-- R63, R99: a settled record has the settle and the mismatch flag of before, or a settle in full and no mismatch. -/
theorem settled_cases (old new : LineRec) : LineRec.settled old new = new
    ∨ LineRec.settled old new = { new with settle := settleMs, mismatch := false } := by
  unfold LineRec.settled
  split
  · exact .inl rfl
  · exact .inr rfl

end

/-! ### Raw levels -/

/-- R65, R66: the keeper level and the raw level of a line are the level that R65 gives. -/
def RawOk (x : External) (r : LineRec) : Prop := r.keeper = r.raw ∧ r.raw = rawLevel x r

/-- R65, R66: so they are after every write of a record whose keeper equals its raw level. -/
theorem rawOk_evaluated (x : External) {r : LineRec} (h : r.keeper = r.raw) : RawOk x (r.evaluated x) := by
  have keeper : (r.evaluated x).keeper = rawLevel x r := by
    unfold LineRec.evaluated
    dsimp only
    split
    · rename_i same
      rw [h, same]
    · rfl
  refine ⟨keeper, ?_⟩
  have raw : (r.evaluated x).raw = rawLevel x r := rfl
  rw [raw]
  cases x with
  | low | high => rfl
  | opened =>
    have driven : (r.evaluated .opened).driven = r.driven := rfl
    have settings : (r.evaluated .opened).direction = r.direction ∧ (r.evaluated .opened).pull = r.pull := ⟨rfl, rfl⟩
    cases d : r.driven with
    | some v => simp only [rawLevel, driven, d]
    | none =>
      cases e : r.direction <;> cases p : r.pull <;>
        simp only [rawLevel, driven, d, settings, e, p] at keeper ⊢ <;> exact keeper.symm

theorem rawOk_step {held : Prop} {x y : External} {r r' : LineRec} (h : RecordStep held x r y r') (law : RawOk x r) :
    RawOk y r' := by
  obtain ⟨keeper, raw⟩ := law
  cases h with
  | stand => exact ⟨keeper, raw⟩
  | write _ move =>
    obtain ⟨sameRaw, sameKeeper⟩ := move.levels
    exact rawOk_evaluated y (sameKeeper.trans (keeper.trans sameRaw.symm))
  | bind | contest => exact ⟨keeper, raw⟩
  | tick =>
    refine ⟨keeper, raw.trans ?_⟩
    unfold rawLevel
    rw [driven_tick]
    rfl

/-- R65 to R67: every command keeps the raw levels. -/
theorem Happens.rawLevelLaw {s t : State} (h : Happens s t) (law : RawLevelLaw s) : RawLevelLaw t := by
  cases h with
  | stands n => exact law
  | resets n => exact rawLevelLaw_reset
  | boards i x inReset =>
    intro j
    have line := law j
    rw [inReset] at line
    change _ ∧ _ = if s.inReset = true then _ else _
    rw [inReset]
    exact line
  | starts x inReset =>
    intro i
    have running : (s.leaveReset x).inReset = false := by rw [leaveReset_eq]
    have external : (s.leaveReset x).external = s.external := by rw [leaveReset_eq]
    rw [running, external, line_leaveReset]
    exact rawOk_evaluated _ (law i).1
  | runs running moves =>
    have running' := moves.inReset.trans running
    have levels : ∀ i : Line, RawOk t.external[i] (t.line i) :=
      moves.keep (P := fun u => ∀ i : Line, RawOk u.external[i] (u.line i))
        (fun move law => move.keep_lines (Ok := RawOk) rawOk_step law)
        fun i => by
          have line := law i
          rw [running] at line
          exact line
    intro i
    rw [running']
    exact levels i

/-! ### Settle and pulse ranges -/

/-- R61, R95, R96, R99: the ranges of one line record. -/
def RangeOk (r : LineRec) : Prop :=
  r.settle ≤ settleMs ∧ ∀ level revert remaining, r.function = .pulse level revert remaining →
    r.direction = .output ∧ r.level = level ∧ remaining ≤ 65535

/-- R99: a record whose line drives another value has its settle in full. -/
theorem rangeOk_settled {old new : LineRec} (h : RangeOk new) : RangeOk (.settled old new) := by
  rcases settled_cases old new with e | e
  · rwa [e]
  · rw [e]
    exact ⟨Nat.le_refl _, h.2⟩

theorem rangeOk_move {held : Prop} {r r' : LineRec} (h : RecordMove held r r') (law : RangeOk r) : RangeOk r' := by
  obtain ⟨settle, pulse⟩ := law
  cases h with
  | same => exact ⟨settle, pulse⟩
  | level v _ plain => exact rangeOk_settled ⟨settle, fun l w n e => by rw [plain] at e; cases e⟩
  | follow v mirror => exact rangeOk_settled ⟨settle, fun l w n e => by rw [mirror] at e; cases e⟩
  | fault mirror => exact rangeOk_settled ⟨settle, fun l w n e => by cases e⟩
  | pulse v _ _ out range =>
    refine rangeOk_settled ⟨settle, fun l w n e => ?_⟩
    cases e
    exact ⟨out, rfl, range⟩
  | complete _ => exact rangeOk_settled ⟨settle, fun l w n e => by cases e⟩
  | configure x level _ _ noPulse => exact ⟨Nat.le_refl _, fun l w n e => absurd e (noPulse l w n)⟩
  | park f _ =>
    have unfunctioned : RangeOk (f.apply r.unfunctioned) := by
      cases f <;> exact ⟨settle, fun l w n e => by cases e⟩
    exact rangeOk_settled unfunctioned

theorem rangeOk_step {held : Prop} {x y : External} {r r' : LineRec} (h : RecordStep held x r y r') (law : RangeOk r) :
    RangeOk r' := by
  cases h with
  | stand => exact law
  | write _ move =>
    have ok := rangeOk_move move law
    exact ok
  | bind | contest => exact law
  | tick =>
    obtain ⟨settle, pulse⟩ := law
    refine ⟨(Nat.sub_le _ _).trans settle, fun l w n e => ?_⟩
    cases function : r.function with
    | plain | mirror => simp [LineRec.tick, function, LineFunction.tick] at e
    | pulse level revert remaining =>
      simp only [LineRec.tick, function, LineFunction.tick, LineFunction.pulse.injEq] at e
      obtain ⟨rfl, rfl, rfl⟩ := e
      obtain ⟨out, same, range⟩ := pulse _ _ _ function
      exact ⟨out, same, (Nat.sub_le _ _).trans range⟩

/-- R61, R95, R99: every command keeps the ranges of the lines. -/
theorem Happens.lineRangeLaw {s t : State} (h : Happens s t) (law : LineRangeLaw s) : LineRangeLaw t := by
  cases h with
  | stands n => exact law
  | resets n => exact lineRangeLaw_reset
  | boards i x _ => exact law
  | starts x _ =>
    intro i
    rw [line_leaveReset]
    exact law i
  | runs _ moves =>
    exact moves.keep (fun move law => move.keep_lines (Ok := fun _ => RangeOk) rangeOk_step law) law

/-- Settles O10, line by line. -/
theorem stepKeepsLevelsAndRanges : Obligations.StepKeepsLevelsAndRanges := by
  intro s t h
  obtain ⟨rest, happens⟩ := step_happens h
  exact ⟨happens.rawLevelLaw, happens.lineRangeLaw⟩

/-! ### Free lines -/

/-- R83: a line that is free is PLAIN and has no mismatch. -/
def FreeOk (r : LineRec) : Prop := r.holder = none → r.function = .plain ∧ r.mismatch = false

theorem freeOk_settled {old new : LineRec} (h : FreeOk new) : FreeOk (.settled old new) := by
  rcases settled_cases old new with e | e
  · rwa [e]
  · rw [e]
    exact fun free => ⟨(h free).1, rfl⟩

theorem freeOk_move {held : Prop} {r r' : LineRec} (h : RecordMove held r r') (law : FreeOk r) : FreeOk r' := by
  have busy : r.function ≠ .plain → ∀ new : LineRec, new.holder = r.holder → FreeOk new := fun function new same free =>
    absurd (law (same ▸ free)).1 function
  cases h with
  | same => exact law
  | level v _ plain => exact freeOk_settled law
  | follow v mirror => exact freeOk_settled law
  | fault mirror => exact freeOk_settled (busy (by simp [mirror]) _ rfl)
  | pulse v _ bound => exact freeOk_settled fun free => absurd free bound
  | complete pulse => exact freeOk_settled (busy (by simp [pulse]) _ rfl)
  | configure x level _ bound => exact fun free => absurd free bound
  | park f _ =>
    refine fun _ => ⟨?_, rfl⟩
    rcases settled_cases r (f.apply r.unfunctioned) with e | e
    all_goals
      unfold LineRec.parked
      rw [e]
      cases f <;> rfl

theorem freeOk_step {held : Prop} {x y : External} {r r' : LineRec} (h : RecordStep held x r y r') (law : FreeOk r) :
    FreeOk r' := by
  cases h with
  | stand => exact law
  | write _ move =>
    have ok := freeOk_move move law
    exact ok
  | bind bound =>
    rename_i b
    intro free
    have free : b = none := free
    refine law ?_
    by_contra held
    exact bound held free
  | contest bound => exact fun free => absurd free bound
  | tick =>
    intro free
    obtain ⟨plain, mismatch⟩ := law free
    exact ⟨by simp [LineRec.tick, LineFunction.tick, plain], mismatch⟩

/-- R83: every command keeps free lines PLAIN and without a mismatch. -/
theorem Happens.freeLineLaw {s t : State} (h : Happens s t) (law : FreeLineLaw s) : FreeLineLaw t := by
  cases h with
  | stands n => exact law
  | resets n => exact freeLineLaw_reset
  | boards i x _ => exact law
  | starts x _ =>
    intro i
    rw [line_leaveReset]
    exact law i
  | runs _ moves => exact moves.keep (fun move law => move.keep_lines (Ok := fun _ => FreeOk) freeOk_step law) law

/-- R83: a PLAIN line that was not held before the command keeps its settings, and is PLAIN. -/
theorem settings_step {held : Prop} {x y : External} {r r' : LineRec} (h : RecordStep held x r y r') (free : ¬ held)
    (plain : r.function = .plain) : r'.settings = r.settings ∧ r'.function = .plain := by
  cases h with
  | stand | bind | contest => exact ⟨rfl, plain⟩
  | tick => exact ⟨rfl, by simp [LineRec.tick, LineFunction.tick, plain]⟩
  | write _ move =>
    cases move with
    | same => exact ⟨rfl, plain⟩
    | level _ h | pulse _ h | configure _ _ h | park _ h => exact absurd h free
    | follow _ h | fault h | complete h => simp [plain] at h

theorem LineMoves.settings {held : Line → Prop} {s t : State} (h : LineMoves held s t) {i : Line} (free : ¬ held i)
    (plain : (s.line i).function = .plain) : (t.line i).settings = (s.line i).settings := by
  have kept := h.keep (P := fun u => (u.line i).settings = (s.line i).settings ∧ (u.line i).function = .plain)
    (fun move ⟨settings, plain⟩ => by
      obtain ⟨same, plain⟩ := settings_step (move.recordStep i) free plain
      exact ⟨same.trans settings, plain⟩) ⟨rfl, plain⟩
  exact kept.1

/-- R68: where the bindings agree with the lease table, a line that is free is held by no command. -/
theorem not_held_of_free {s : State} (law : BindingLaw s) {i : Line} (free : (s.line i).holder = none) : ¬ s.held i := by
  rintro (bound | leased)
  · exact bound free
  · obtain ⟨l, hl, covers⟩ := List.any_eq_true.mp leased
    obtain ⟨e, he, rfl⟩ := coversLine_iff.mp covers
    rw [law.2 l hl e he] at free
    cases free

/-- Settles O9: no move of a command reaches the settings of a line that was free before it. -/
theorem stepKeepsFreeLinesPlain : Obligations.StepKeepsFreeLinesPlain := by
  refine ⟨freeLineLaw_reset, fun s t h law => ?_⟩
  obtain ⟨rest, happens⟩ := step_happens h
  refine ⟨happens.freeLineLaw law, fun bindings running running' i free => ?_⟩
  cases happens with
  | stands n => rfl
  | resets n => cases running'
  | boards _ _ inReset | starts _ inReset => exact absurd inReset (by simp [running])
  | runs _ moves => exact moves.settings (not_held_of_free bindings free) (law i free).1

/-! ### Arrivals -/

theorem alternating_append (v w : Level) (ls : List Level) :
    Alternating v (ls ++ [w]) ↔ Alternating v ls ∧ w = !(ls.getLast?.getD v) := by
  induction ls generalizing v with
  | nil => simp [Alternating]
  | cons u us ih =>
    simp only [List.cons_append, Alternating, ih, and_assoc, List.getLast?_cons, Option.getD_some]

/-- R121, R125: the law of the arrivals of one line: `seen` is its seen level and `raw` its raw level. -/
def ArrivalsOk (seen raw : Level) (ls : List Level) : Prop := Alternating seen ls ∧ ls.getLast?.getD seen = raw

/-- R66: a raw level that moves hands on an arrival with the level it moves to. -/
theorem arrivalsOk_move {seen raw : Level} {ls : List Level} (h : ArrivalsOk seen raw ls) {v : Level} (moved : v ≠ raw) :
    ArrivalsOk seen v (ls ++ [v]) := by
  obtain ⟨alternating, last⟩ := h
  refine ⟨(alternating_append seen v ls).mpr ⟨alternating, ?_⟩, by simp⟩
  rw [last]
  revert moved
  cases v <;> cases raw <;> simp

/-- R125: an arrival that is taken becomes the seen level. -/
theorem arrivalsOk_take {seen raw v : Level} {ls : List Level} (h : ArrivalsOk seen raw (v :: ls)) :
    ArrivalsOk v raw ls := by
  obtain ⟨⟨-, alternating⟩, last⟩ := h
  refine ⟨alternating, ?_⟩
  rw [← last, List.getLast?_cons, Option.getD_some]

theorem inFlight_handOn (i : Line) (c : LevelChange) (bs : List (List LevelChange)) :
    inFlight i (handOn c bs) = inFlight i bs ++ if c.line = i then [c.level] else [] := by
  unfold inFlight
  rw [flatten_handOn]
  by_cases same : c.line = i <;> simp [same]

theorem ArrivalLaw.writeLine {s : State} {i : Line} {r : LineRec} (raw : r.raw = (s.line i).raw) (law : ArrivalLaw s) :
    ArrivalLaw (s.writeLine i r) := by
  intro j
  have input : (s.writeLine i r).input j = s.input j := by rw [writeLine_linesOnly i r s]; rfl
  have line := law j
  change ArrivalsOk _ _ _ at line
  change ArrivalsOk _ _ _
  rw [input, line_writeLine_eq, arrivals_writeLine]
  by_cases moved : rawLevel s.external[i] r = r.raw
  · rw [if_pos moved]
    split
    · rename_i same
      subst same
      change ArrivalsOk _ (rawLevel _ r) _
      rw [moved, raw]
      exact line
    · exact line
  · rw [if_neg moved, inFlight_handOn]
    split
    · rename_i same
      subst same
      rw [if_pos rfl]
      exact arrivalsOk_move line (raw ▸ moved)
    · rename_i other
      rw [if_neg (Ne.symm other), List.append_nil]
      exact line

theorem ArrivalLaw.setLine {s : State} {i : Line} {r : LineRec} (raw : r.raw = (s.line i).raw) (law : ArrivalLaw s) :
    ArrivalLaw (s.setLine i r) := by
  intro j
  have same : ((s.setLine i r).line j).raw = (s.line j).raw := by
    rw [State.line_setLine]
    split
    · rename_i same
      rw [same, raw]
    · rfl
  rw [same]
  exact law j

theorem LineMove.arrivalLaw {held : Line → Prop} {s t : State} (h : LineMove held s t) (law : ArrivalLaw s) :
    ArrivalLaw t := by
  cases h with
  | beside h =>
    intro i
    rw [h.seen, inFlight_congr i h.arrivals, line_congr h.lines]
    exact law i
  | write i move => exact law.writeLine move.levels.1
  | external i x =>
    have law : ArrivalLaw (s.setExternal i x) := law
    exact law.writeLine rfl
  | bind i _ | contest i _ => exact law.setLine rfl
  | tick =>
    intro j
    have line : State.line { s with lines := mapTable LineRec.tick s.lines } j = (s.line j).tick :=
      mapTable_getElem LineRec.tick s.lines j
    rw [line]
    exact law j
  | arrive i taken =>
    rename_i v rest
    obtain ⟨oldest, others⟩ := inFlight_takeChange taken
    intro j
    change ArrivalsOk (State.input { s with inputs := updateLine s.inputs i fun r => { r with seen := v } } j).seen
      (s.line j).raw (inFlight j rest)
    rw [input_updateLine]
    split
    · rename_i same
      subst same
      have line : ArrivalsOk (s.input j).seen (s.line j).raw (inFlight j s.arrivals) := law j
      rw [oldest] at line
      exact arrivalsOk_take line
    · rename_i other
      rw [others j other]
      exact law j

/-- R121, R125: every command keeps the arrivals of each line alternating. -/
theorem Happens.arrivalLaw {s t : State} (h : Happens s t) (law : ArrivalLaw s) : ArrivalLaw t := by
  cases h with
  | stands n => exact law
  | resets n => exact arrivalLaw_reset
  | boards i x _ => exact law
  | runs _ moves => exact moves.keep (fun move law => move.arrivalLaw law) law
  | starts x _ =>
    have strapped : ArrivalLaw (s.strapped x) := law
    have evaluated := (evaluateLines_lineMoves (held := fun _ => False) (s.strapped x)).keep
      (fun move law => move.arrivalLaw law) strapped
    rw [leaveReset_evaluateLines]
    generalize (s.strapped x).evaluateLines = t at evaluated
    exact evaluated

/-! ### The arrivals of the end of device reset -/

theorem StartUpLaw.writeLine {s : State} {i : Line} {r : LineRec} (law : StartUpLaw s) :
    StartUpLaw (s.writeLine i r) := by
  obtain ⟨awaited, none⟩ := law
  have startUp : (s.writeLine i r).startUp = s.startUp := by rw [writeLine_linesOnly i r s]
  have subs : (s.writeLine i r).subs = s.subs := by rw [writeLine_linesOnly i r s]
  refine ⟨fun j hj => ?_, fun starting h j => ?_⟩
  · have here := awaited j (startUp ▸ hj)
    rw [arrivals_writeLine]
    split
    · exact here
    · rw [inFlight_handOn]
      simp [here]
  · rw [State.subscription, subs]
    exact none (startUp ▸ starting) h j

theorem LineMove.startUpLaw {held : Line → Prop} {s t : State} (h : LineMove held s t) (law : StartUpLaw s) :
    StartUpLaw t := by
  obtain ⟨awaited, none⟩ := law
  cases h with
  | beside h =>
    refine ⟨fun i hi => ?_, fun starting => ?_⟩
    · rw [inFlight_congr i h.arrivals]
      exact awaited i (h.startUp ▸ hi)
    · rw [h.startUp] at starting
      exact h.subs starting (none starting)
  | write i _ => exact StartUpLaw.writeLine ⟨awaited, none⟩
  | external i x =>
    have law : StartUpLaw (s.setExternal i x) := ⟨awaited, none⟩
    exact law.writeLine
  | bind | contest | tick => exact ⟨awaited, none⟩
  | arrive i taken =>
    obtain ⟨-, others⟩ := inFlight_takeChange taken
    refine ⟨fun j hj => ?_, fun starting => none fun empty => starting ?_⟩
    · obtain ⟨hj, other⟩ := List.mem_filter.mp hj
      rw [others j (by simpa using other)]
      exact awaited j hj
    · change List.filter _ s.startUp = []
      rw [empty]
      rfl

/-- R67, R133: every command keeps the law of the arrivals of the end of device reset. -/
theorem Happens.startUpLaw {s t : State} (h : Happens s t) (reset : ResetLaw s) (law : StartUpLaw s) : StartUpLaw t := by
  cases h with
  | stands n => exact law
  | resets n => exact startUpLaw_reset
  | boards i x _ => exact law
  | runs _ moves => exact moves.keep (fun move law => move.startUpLaw law) law
  | starts x inReset =>
    refine ⟨fun i hi => ?_, fun _ h i => ?_⟩
    · have arrivals : ArrivalLaw s := by
        rw [reset inReset]
        exact arrivalLaw_reset
      have last := ((Happens.starts x inReset).arrivalLaw arrivals i).2
      have seen : ((s.leaveReset x).input i).seen = false := by
        rw [leaveReset_eq, reset inReset]
        change (State.reset.input i).seen = false
        rw [input_reset]
        rfl
      have raw : ((s.leaveReset x).line i).raw = true := by
        rw [leaveReset_eq] at hi
        rw [line_leaveReset]
        simpa using (List.mem_filter.mp hi).2
      intro empty
      rw [empty, seen, raw] at last
      cases last
    · rw [leaveReset_eq]
      change s.subscription h i = none
      rw [reset inReset]
      exact subscription_reset h i

/-- Settles O12, line by line and arrival by arrival. -/
theorem stepKeepsArrivalsAlternating : Obligations.StepKeepsArrivalsAlternating := by
  intro s t h
  obtain ⟨rest, happens⟩ := step_happens h
  refine ⟨happens.arrivalLaw, fun reset law => happens.startUpLaw (fun inReset => ?_) law⟩
  exact congrArg (fun u : State => { u with pending := rest }) (reset inReset)

end Sys2Proof.Machine
end

section
/-! PROOF. Every line stays bound to its lease exactly while the lease is live and covers it (R68, R69, R81). -/

namespace Sys2Proof.Machine

/-! ### The law as one equivalence -/

/-- R68: a live lease covers line `i`, and `b` names it and its holder. -/
def State.binds (s : State) (i : Line) (b : Binding) : Prop :=
  ∃ l ∈ s.leases, coversLine l.entries i = true ∧ b = ⟨l.id, l.holder⟩

theorem bindingLaw_iff {s : State} : BindingLaw s ↔ ∀ i b, (s.line i).holder = some b ↔ s.binds i b := by
  constructor
  · rintro ⟨bound, lines⟩ i b
    refine ⟨bound i b, ?_⟩
    rintro ⟨l, hl, covers, rfl⟩
    obtain ⟨e, he, rfl⟩ := coversLine_iff.mp covers
    exact lines l hl e he
  · exact fun law => ⟨fun i b => (law i b).mp, fun l hl e he =>
      (law e.line _).mpr ⟨l, hl, coversLine_iff.mpr ⟨e, he, rfl⟩, rfl⟩⟩

/-! ### What leaves the bindings as they are -/

/-- The leases stand but for fields that no binding names, and every line keeps its holder. -/
structure SameBindings (s t : State) : Prop where
  leases : ∃ f, KeepsLines f ∧ t.leases = s.leases.map f
  holders : ∀ i, (t.line i).holder = (s.line i).holder

section

variable {s t u : State}

theorem SameBindings.of_leases (leases : t.leases = s.leases) (holders : ∀ i, (t.line i).holder = (s.line i).holder) :
    SameBindings s t := ⟨⟨id, fun _ => ⟨rfl, rfl, rfl⟩, by rw [leases, List.map_id]⟩, holders⟩

/-- The tables of leases and claims stand, and every line keeps its holder. -/
theorem SameBindings.of_tables (tables : t.tables = s.tables) (holders : ∀ i, (t.line i).holder = (s.line i).holder) :
    SameBindings s t := .of_leases (congrArg Tables.leases tables) holders

/-- Neither a lease nor a line record differs. -/
theorem SameBindings.of_same (leases : t.leases = s.leases) (lines : t.lines = s.lines) : SameBindings s t :=
  .of_leases leases fun i => by rw [line_congr lines]

theorem SameBindings.refl (s : State) : SameBindings s s := .of_same rfl rfl

theorem SameBindings.trans (h : SameBindings s t) (k : SameBindings t u) : SameBindings s u := by
  obtain ⟨⟨f, keepsF, leasesF⟩, holdersF⟩ := h
  obtain ⟨⟨g, keepsG, leasesG⟩, holdersG⟩ := k
  refine ⟨⟨g ∘ f, fun l => ?_, by rw [leasesG, leasesF, List.map_map]⟩, fun i => (holdersG i).trans (holdersF i)⟩
  obtain ⟨id, holder, entries⟩ := keepsF l
  obtain ⟨id', holder', entries'⟩ := keepsG (f l)
  exact ⟨id'.trans id, holder'.trans holder, entries'.trans entries⟩

theorem SameBindings.foldl {α : Type} {g : State → α → State} (step : ∀ s x, SameBindings s (g s x)) (xs : List α)
    (s : State) : SameBindings s (xs.foldl g s) :=
  foldl_rel SameBindings.refl .trans step xs s

theorem SameBindings.binds (h : SameBindings s t) (i : Line) (b : Binding) : t.binds i b ↔ s.binds i b := by
  obtain ⟨f, keeps, leases⟩ := h.leases
  unfold State.binds
  rw [leases]
  simp only [List.mem_map, exists_exists_and_eq_and]
  exact exists_congr fun l => and_congr_right fun _ => by
    obtain ⟨id, holder, entries⟩ := keeps l
    rw [id, holder, entries]

theorem SameBindings.law (h : SameBindings s t) (law : BindingLaw s) : BindingLaw t :=
  bindingLaw_iff.mpr fun i b => by rw [h.holders, h.binds]; exact bindingLaw_iff.mp law i b

theorem LinesOnly.sameBindings (h : LinesOnly s t) (holders : ∀ i, (t.line i).holder = (s.line i).holder) :
    SameBindings s t := .of_tables h.tables holders

theorem RecordsOnly.sameBindings (h : RecordsOnly s t) : SameBindings s t := by
  rw [h]
  exact .of_same rfl rfl

end

section

variable (s : State)

/-- R66: a record written with the holder that the line has. -/
theorem writeLine_sameBindings (i : Line) {r : LineRec} (holder : r.holder = (s.line i).holder) :
    SameBindings s (s.writeLine i r) :=
  (writeLine_linesOnly i r s).sameBindings fun j => by
    rw [line_writeLine]
    split
    · rename_i same
      rw [same]
      exact holder
    · rfl

theorem holder_settled (old new : LineRec) : (LineRec.settled old new).holder = new.holder := by
  unfold LineRec.settled
  split <;> rfl

theorem driveLine_sameBindings (i : Line) {r : LineRec} (holder : r.holder = (s.line i).holder) :
    SameBindings s (s.driveLine i r) :=
  writeLine_sameBindings s i ((holder_settled _ _).trans holder)

theorem raiseHolder_sameBindings (b : Option Binding) (e : Event) : SameBindings s (s.raiseHolder b e) :=
  (raiseHolder_recordsOnly b e s).sameBindings

theorem holder_withFault (r : LineRec) : r.withFault.holder = r.holder := by
  unfold LineRec.withFault
  split <;> rfl

/-- R91: a mirror that faults stays bound. -/
theorem present_sameBindings (source : Line) : SameBindings s (s.present source) :=
  (present_linesOnly source s).sameBindings fun j => by
    rw [line_present]
    split
    · exact holder_withFault _
    · rfl

theorem followMirror_sameBindings (source : Line) (v : Level) (m : Line) : SameBindings s (s.followMirror source v m) :=
  (followMirror_linesOnly source v m s).sameBindings fun j => by
    rw [line_followMirror]
    split
    · rename_i follows
      rw [follows.1]
      rfl
    · rfl

theorem driveTest_sameBindings (i : Line) (v : Level) : SameBindings s (s.driveTest i v) :=
  (driveTest_linesOnly i v s).sameBindings fun j => by
    rw [line_driveTest]
    split
    · rename_i contested
      rw [contested.1]
    · rfl

/-- R3, R20, R21, R47: fields of one lease change that no binding names. -/
theorem updateLease_sameBindings (id : Nat) {f : Lease → Lease} (keeps : KeepsLines f) :
    SameBindings s (s.updateLease id f) := ⟨⟨_, keeps.ite id, rfl⟩, fun _ => rfl⟩

theorem removeClaims_sameBindings (p : Claim → Bool) (reason : Option Reason) :
    SameBindings s (s.removeClaims p reason) := by
  rw [removeClaims_frame]
  exact .of_same rfl rfl

theorem endOffersTo_sameBindings (n : Host) : SameBindings s (s.endOffersTo n) := by
  refine .foldl (fun t l => ?_) s.leases s
  rw [endOfferTo_eq]
  split
  · exact (updateLease_sameBindings t l.id (f := Lease.activated) fun _ => ⟨rfl, rfl, rfl⟩).trans
      (raise_recordsOnly _ _ _).sameBindings
  · exact .refl t

theorem takeReport_sameBindings (i : Line) (v : Level) : SameBindings s (s.takeReport i v) :=
  (SameBindings.foldl (fun t m => followMirror_sameBindings t i v m) allLines s).trans (driveTest_sameBindings _ i v)

theorem completePulse_sameBindings (i : Line) (revert : Level) : SameBindings s (s.completePulse i revert) :=
  (driveLine_sameBindings s i (r := { s.line i with level := revert, function := .plain }) rfl).trans
    (raiseHolder_sameBindings _ _ _)

/-- R20, R49, R96, R99: the timers count. -/
theorem tick_sameBindings (order : List Line) : SameBindings s (s.tick order) := by
  unfold State.tick
  split
  · exact .refl s
  · have counted : SameBindings s (s.countTick.tickWaits .lineMatrix) :=
      ⟨⟨Lease.tick, fun _ => ⟨rfl, rfl, rfl⟩, rfl⟩, fun i => by rw [line_countTick]; rfl⟩
    exact counted.trans (.foldl (fun t i => driveTest_sameBindings t i _) _ _)

theorem holder_evaluated (x : External) (r : LineRec) : (r.evaluated x).holder = r.holder := rfl

/-- R67: an evaluation of the lines leaves them to their holders. -/
theorem leaveReset_sameBindings (x : Straps) : SameBindings s (s.leaveReset x) :=
  .of_tables (tables_leaveReset x s) fun i =>
    (congrArg LineRec.holder (line_leaveReset s x i)).trans (holder_evaluated _ _)

theorem asOneEvent_sameBindings {f : State → State} (hf : ∀ s, SameBindings s (f s)) :
    SameBindings s (State.asOneEvent f s) := by
  have opened : SameBindings s s.opened := .of_same rfl rfl
  have closed : SameBindings (f s.opened) (State.asOneEvent f s) := .of_same rfl rfl
  exact (opened.trans (hf _)).trans closed

end

/-! ### Grants and the scan -/

/-- R14, R68: free lines are bound to the lease that is granted. -/
theorem BindingLaw.grant {s : State} (law : BindingLaw s) (h : Host) {es : List LineEntry} (free : s.allFree es = true)
    (interval : Nat) : BindingLaw (s.grant h es interval) := by
  refine bindingLaw_iff.mpr fun i b => ?_
  have before := bindingLaw_iff.mp law i b
  unfold State.binds at before ⊢
  simp only [(grant_leases h es interval s).mem_iff, List.exists_mem_cons_iff]
  rw [line_grant]
  cases covers : coversLine es i with
  | false => simpa [covers] using before
  | true =>
    obtain ⟨e, he, rfl⟩ := coversLine_iff.mp covers
    have unheld : ∀ l ∈ s.leases, coversLine l.entries e.line = false := fun l hl =>
      sharesLine_eq_false.mp (allFree_iff.mp free l hl) e he
    constructor
    · intro bound
      cases bound
      exact .inl ⟨rfl, rfl⟩
    · rintro (⟨-, rfl⟩ | ⟨l, hl, held, -⟩)
      · rfl
      · rw [unheld l hl] at held
        cases held

/-- R34, R35: the scan binds the lines of each claim that it grants. -/
theorem BindingLaw.scanFrom (claims : List Claim) : ∀ (older : List Claim) {s : State}, BindingLaw s →
    BindingLaw (State.scanFrom older claims s) := by
  induction claims with
  | nil => exact fun older s law => (SameBindings.of_same rfl rfl : SameBindings s _).law law
  | cons c rest ih =>
    intro older s law
    unfold State.scanFrom
    split
    · rename_i granted
      simp only [State.scanGrants, Bool.and_eq_true] at granted
      refine ih older ((raise_recordsOnly _ _ _).sameBindings.law (law.grant c.host granted.1.1 c.interval))
    · exact ih _ law

theorem BindingLaw.scan {s : State} (law : BindingLaw s) : BindingLaw s.scan := .scanFrom s.queue [] law

theorem BindingLaw.scanIf {s : State} (law : BindingLaw s) (removed : Bool) : BindingLaw (s.scanIf removed) := by
  cases removed
  · exact law
  · exact law.scan

/-! ### Lease ends and transfers -/

theorem holder_parkLines (entries : List LineEntry) (s : State) (i : Line) :
    ((s.parkLines entries).line i).holder = if coversLine entries i then none else (s.line i).holder := by
  have parked : ((entries.foldl (fun t e => t.parkLine e) s).line i).holder =
      if coversLine entries i then none else (s.line i).holder := by
    induction entries generalizing s with
    | nil => simp [coversLine]
    | cons e es ih =>
      rw [List.foldl_cons, ih, line_parkLine]
      by_cases same : i = e.line
      · simp [coversLine, same]
      · have other : (e.line == i) = false := by simp [Ne.symm same]
        simp [coversLine, same, other]
  exact ((SameBindings.foldl (fun t e => present_sameBindings t e.line) entries _).holders i).trans parked

theorem holder_endLease (l : Lease) (cause : EndCause) (s : State) (i : Line) :
    ((s.endLease l cause).line i).holder = if coversLine l.entries i then none else (s.line i).holder := by
  have notices := (withdrawOffer_recordsOnly l cause s).trans (noticeLoss_recordsOnly l cause _)
  rw [← notices.sameBindings.holders i]
  exact holder_parkLines l.entries _ i

/-- R17, R81: the lines of a lease that ends become free. -/
theorem BindingLaw.endLease {s : State} (law : BindingLaw s) (sorted : s.leases.Pairwise fun a b => a.id < b.id)
    {l : Lease} (hl : l ∈ s.leases) (cause : EndCause) : BindingLaw (s.endLease l cause) := by
  refine bindingLaw_iff.mpr fun i b => ?_
  have before := bindingLaw_iff.mp law i b
  rw [holder_endLease]
  unfold State.binds
  simp only [endLease_leases, List.mem_filter, bne_iff_ne]
  cases covers : coversLine l.entries i with
  | true =>
    have own := (bindingLaw_iff.mp law i ⟨l.id, l.holder⟩).mpr ⟨l, hl, covers, rfl⟩
    refine ⟨fun bound => (nomatch bound), ?_⟩
    rintro ⟨m, ⟨hm, other⟩, held, -⟩
    rw [(bindingLaw_iff.mp law i ⟨m.id, m.holder⟩).mpr ⟨m, hm, held, rfl⟩, Option.some.injEq, Binding.mk.injEq] at own
    exact absurd own.1 other
  | false =>
    refine before.trans ⟨?_, ?_⟩
    · rintro ⟨m, hm, held, rfl⟩
      refine ⟨m, ⟨hm, fun same => ?_⟩, held, rfl⟩
      have found := findLease_of_mem sorted hm
      rw [same, findLease_of_mem sorted hl] at found
      cases found
      rw [covers] at held
      cases held
    · rintro ⟨m, ⟨hm, -⟩, held⟩
      exact ⟨m, hm, held⟩

/-- R114, step 3: leases that end one after another. -/
theorem BindingLaw.endLeases (ls : List Lease) (distinct : ls.Pairwise fun a b => a.id < b.id) : ∀ {s : State},
    BindingLaw s → (s.leases.Pairwise fun a b => a.id < b.id) → (∀ l ∈ ls, l ∈ s.leases) →
    BindingLaw (ls.foldl (fun t l => t.endLease l .teardown) s) := by
  induction ls with
  | nil => exact fun law _ _ => law
  | cons l ls ih =>
    intro s law sorted live
    obtain ⟨later, distinct⟩ := List.pairwise_cons.mp distinct
    refine ih distinct (law.endLease sorted (live l (by simp)) .teardown) ?_ fun m hm => ?_
    · rw [endLease_leases]
      exact sorted.sublist List.filter_sublist
    · rw [endLease_leases, List.mem_filter, bne_iff_ne]
      exact ⟨live m (by simp [hm]), Nat.ne_of_gt (later m hm)⟩

/-- R69: the lines of a lease that passes are bound to its new holder. -/
theorem BindingLaw.transfer {s : State} (law : BindingLaw s) (table : LeaseTableLaw s) {l : Lease} (hl : l ∈ s.leases)
    (h : Host) : BindingLaw (s.transfer l h) := by
  have leases : (s.transfer l h).leases = s.leases.map fun m => if m.id = l.id then m.passTo h else m :=
    congrArg Tables.leases (transfer_tables l h s)
  refine bindingLaw_iff.mpr fun i b => ?_
  have before := bindingLaw_iff.mp law i
  unfold State.binds at before ⊢
  rw [leases, line_transfer]
  simp only [List.mem_map, exists_exists_and_eq_and]
  cases covers : coversLine l.entries i with
  | true =>
    have own := (before ⟨l.id, l.holder⟩).mpr ⟨l, hl, covers, rfl⟩
    simp only [if_true, own, Option.map_some, Option.some.injEq]
    constructor
    · rintro rfl
      exact ⟨l, hl, by simpa [Lease.passTo, Lease.renewed, Lease.activated] using covers⟩
    · rintro ⟨m, hm, held, rfl⟩
      have entries : (if m.id = l.id then m.passTo h else m).entries = m.entries := by split <;> rfl
      rw [entries] at held
      have same := (before ⟨m.id, m.holder⟩).mpr ⟨m, hm, held, rfl⟩
      rw [own, Option.some.injEq, Binding.mk.injEq] at same
      simp [← same.1, Lease.passTo, Lease.renewed, Lease.activated]
  | false =>
    simp only [Bool.false_eq_true, if_false]
    refine (before b).trans (exists_congr fun m => and_congr_right fun hm => ?_)
    split
    · rename_i same
      rw [table.eq_of_id hl hm same]
      simp [Lease.passTo, Lease.renewed, Lease.activated, covers]
    · rfl

/-! ### What keeps the law -/

/-- R68: where lease ids are distinct, lines stay bound to their leases from state `s` to state `t`. -/
def KeepsBindings (s t : State) : Prop := LeaseTableLaw s → BindingLaw s → BindingLaw t

section

variable {s t u : State}

theorem SameBindings.keeps (h : SameBindings s t) : KeepsBindings s t := fun _ => h.law

theorem KeepsBindings.refl (s : State) : KeepsBindings s s := fun _ => id

/-- The leases and the lines differ in nothing at first. -/
theorem KeepsBindings.from_same (k : KeepsBindings t u) (tables : t.tables = s.tables) (lines : t.lines = s.lines) :
    KeepsBindings s u := fun table law =>
  k (table.congr tables) ((SameBindings.of_same (congrArg Tables.leases tables) lines).law law)

theorem KeepsBindings.then (k : KeepsBindings s t) (h : BindingLaw t → BindingLaw u) : KeepsBindings s u :=
  fun table law => h (k table law)

theorem endLeaseAndScan_keepsBindings {l : Lease} (hl : l ∈ s.leases) (cause : EndCause) :
    KeepsBindings s (s.endLeaseAndScan l cause) := fun table law => (law.endLease table.sorted hl cause).scan

theorem teardown_keepsBindings (n : Host) (supervisor : Option Host) (s : State) :
    KeepsBindings s (s.teardown n supervisor) := by
  intro table law
  have dismissed : BindingLaw (s.dismissClaims n) := (removeClaims_sameBindings s _ none).law law
  have offers : BindingLaw ((s.dismissClaims n).endOffersTo n) := (endOffersTo_sameBindings _ n).law dismissed
  have leases := endOffersTo_leases (s := s.dismissClaims n) table n
  have sorted : ((s.dismissClaims n).endOffersTo n).leases.Pairwise fun a b => a.id < b.id := by
    rw [leases, List.pairwise_map]
    exact table.sorted.imp fun h => by simpa only [id_withoutOfferTo] using h
  have ended : BindingLaw (s.shutOut n) := by
    refine .endLeases _ (sorted.sublist List.filter_sublist) offers sorted fun l hl => ?_
    exact List.mem_of_mem_filter hl
  have emptied : SameBindings (s.shutOut n) (((s.shutOut n).unsubscribeAll n).updateQueue n fun _ =>
      EventQueue.clear (s.shutOut n).timestamp supervisor) := .of_same rfl rfl
  rw [teardown_eq]
  exact (emptied.law ended).scan

theorem asOneEvent_keepsBindings {f : State → State} (hf : ∀ s, KeepsBindings s (f s)) (s : State) :
    KeepsBindings s (State.asOneEvent f s) := by
  have closed : SameBindings (f s.opened) (State.asOneEvent f s) := .of_same rfl rfl
  have opened : KeepsBindings s.opened (f s.opened) := hf s.opened
  exact (opened.from_same (s := s) rfl rfl).then closed.law

theorem takes_keepsBindings {f : State → State} (hf : ∀ s, KeepsBindings s (f s)) {s t : State}
    (h : s.takes f = .next t) : KeepsBindings s t := by
  unfold State.takes at h
  split at h <;> cases h
  · exact .refl s
  · exact hf s

theorem portEvent_keepsBindings {p : Host} {f : PortState → PortState} {s t : State} (h : s.portEvent p f = .next t) :
    KeepsBindings s t :=
  takes_keepsBindings (f := fun u => u.updatePort p fun q => f q.takeTimeout)
    (fun _ => SameBindings.keeps (.of_same rfl rfl)) h

end

/-! ### Owners -/

/-- The body of a command keeps the bindings. -/
def BodyKeepsBindings (body : List Byte → State → State × Reply) : Prop := ∀ ps s, KeepsBindings s (body ps s).1

theorem BodyKeepsBindings.of_same {body : List Byte → State → State × Reply} (h : ∀ ps s, SameBindings s (body ps s).1) :
    BodyKeepsBindings body := fun ps s => (h ps s).keeps

theorem ownerTakes_keepsBindings {p : Host} {cmd : Cmd} {applies : List Byte → Bool}
    {body : List Byte → State → State × Reply} (h : BodyKeepsBindings body) (s : State) :
    KeepsBindings s (s.ownerTakes p cmd applies body) := by
  unfold State.ownerTakes
  split
  · exact (h _ s).then (SameBindings.of_same rfl rfl).law
  · exact .refl s

theorem leaseControllerTakes_keepsBindings {p : Host} {cmd : Cmd} {body : List Byte → State → State × Reply}
    (h : BodyKeepsBindings body) (s : State) : KeepsBindings s (s.leaseControllerTakes p cmd body) := by
  unfold State.leaseControllerTakes
  split
  · exact ownerTakes_keepsBindings (fun ps t => (h ps { t with lastServed := p }).from_same rfl rfl) s
  · exact .refl s

/-! ### The commands on leases and claims -/

section

variable (caller : Host)

theorem claimBody_keepsBindings : BodyKeepsBindings (State.claimBody caller) := by
  intro ps s
  unfold State.claimBody
  split
  · exact .refl s
  · rename_i es _
    rcases admission_cases s caller es (param ps 1).toNat with ⟨e, free, -⟩ | ⟨e, -⟩ | ⟨st, e, -⟩
    · rw [e]
      exact fun _ law => law.grant caller free _
    · rw [e]
      exact SameBindings.keeps (.of_same rfl rfl)
    · rw [e]
      exact .refl s

theorem cancelBody_keepsBindings : BodyKeepsBindings (State.cancelBody caller) := by
  intro ps s
  unfold State.cancelBody
  split
  · exact .refl s
  · split
    · exact (removeClaims_sameBindings s _ none).keeps.then .scan
    · exact .refl s

theorem releaseBody_keepsBindings : BodyKeepsBindings (State.releaseBody caller) := by
  intro ps s
  unfold State.releaseBody
  rcases heldLease_cases s caller (param ps 0).toNat with ⟨-, e⟩ | ⟨l, found, ⟨-, e⟩ | ⟨-, e⟩⟩
  · rw [e]
    exact .refl s
  · rw [e]
    exact .refl s
  · rw [e]
    exact endLeaseAndScan_keepsBindings (findLease_some found).1 .release

theorem renewBody_sameBindings (ps : List Byte) (s : State) : SameBindings s (State.renewBody caller ps s).1 := by
  unfold State.renewBody
  split
  · exact .refl s
  · exact updateLease_sameBindings s _ fun _ => ⟨rfl, rfl, rfl⟩

theorem renewAllBody_sameBindings (ps : List Byte) (s : State) : SameBindings s (State.renewAllBody caller ps s).1 := by
  refine ⟨⟨fun l => if l.holder = caller then l.renewed else l, fun l => ?_, rfl⟩, fun _ => rfl⟩
  dsimp only
  split <;> exact ⟨rfl, rfl, rfl⟩

theorem queryLeaseBody_sameBindings (ps : List Byte) (s : State) : SameBindings s (State.queryLeaseBody ps s).1 := by
  unfold State.queryLeaseBody
  split
  · exact .refl s
  · split <;> exact .refl s

theorem offerBody_sameBindings (ps : List Byte) (s : State) : SameBindings s (State.offerBody caller ps s).1 := by
  unfold State.offerBody
  split
  · exact .refl s
  · rename_i r _
    exact (updateLease_sameBindings s r.1.id (f := fun m => { m with offer := some ⟨r.2, offerMs⟩ })
      fun _ => ⟨rfl, rfl, rfl⟩).trans (raise_recordsOnly _ _ _).sameBindings

theorem acceptBody_keepsBindings : BodyKeepsBindings (State.acceptBody caller) := by
  intro ps s
  unfold State.acceptBody
  split
  · exact .refl s
  · rename_i l offered
    split
    · exact .refl s
    · intro table law
      have passed := law.transfer table (offeredLease_some offered).1 caller
      exact ((removeClaims_sameBindings _ _ _).law passed).scanIf _

theorem declineBody_sameBindings (ps : List Byte) (s : State) : SameBindings s (State.declineBody caller ps s).1 := by
  unfold State.declineBody
  split
  · exact .refl s
  · rename_i l _
    exact (updateLease_sameBindings s l.id (f := Lease.activated) fun _ => ⟨rfl, rfl, rfl⟩).trans
      (raise_recordsOnly _ _ _).sameBindings

theorem revokeBody_keepsBindings : BodyKeepsBindings (State.revokeBody caller) := by
  intro ps s
  unfold State.revokeBody
  split
  · exact .refl s
  · split
    · exact .refl s
    · exact endLeaseAndScan_keepsBindings (findLease_some ‹_›).1 _

theorem reserveBody_keepsBindings : BodyKeepsBindings (State.reserveBody caller) := by
  intro ps s
  unfold State.reserveBody
  split
  · exact .refl s
  · split
    · exact .refl s
    · split
      · exact .refl s
      · rename_i a _
        have sets : SameBindings s (s.reserveLines (paramMask ps 0) a) := .of_same rfl rfl
        exact (sets.trans (removeClaims_sameBindings _ _ _)).keeps.then fun law => law.scanIf _

theorem detachBody_keepsBindings : BodyKeepsBindings (State.detachBody caller) :=
  fun _ s => teardown_keepsBindings caller none s

theorem clearHostBody_keepsBindings : BodyKeepsBindings (State.clearHostBody caller) := by
  intro ps s
  unfold State.clearHostBody
  split
  · exact .refl s
  · split
    · exact .refl s
    · exact teardown_keepsBindings _ _ s

/-! ### The commands on lines -/

theorem setLevelBody_sameBindings (ps : List Byte) (s : State) : SameBindings s (State.setLevelBody caller ps s).1 := by
  unfold State.setLevelBody
  split
  · exact .refl s
  · exact .foldl (g := State.writeLevel (paramMask ps 4))
      (fun t i => driveLine_sameBindings t i (r := { t.line i with level := _ }) rfl) _ s

theorem configureBody_sameBindings (ps : List Byte) (s : State) : SameBindings s (State.configureBody caller ps s).1 := by
  unfold State.configureBody
  split
  · exact .refl s
  · rename_i x _
    have written : SameBindings s (s.writeLine x.line ((s.line x.line).configured x .plain (s.line x.line).level)) :=
      writeLine_sameBindings s x.line rfl
    exact written.trans (present_sameBindings _ x.line)

theorem configureMirrorBody_sameBindings (ps : List Byte) (s : State) :
    SameBindings s (State.configureMirrorBody caller ps s).1 := by
  unfold State.configureMirrorBody
  split
  · exact .refl s
  · split
    · exact .refl s
    · refine .trans ?_ (present_sameBindings _ _)
      split
      · exact (raise_recordsOnly _ _ s).sameBindings.trans (writeLine_sameBindings _ _ rfl)
      · exact writeLine_sameBindings s _ rfl

theorem pulseBody_sameBindings (ps : List Byte) (s : State) : SameBindings s (State.pulseBody caller ps s).1 := by
  unfold State.pulseBody
  split
  · exact .refl s
  · exact driveLine_sameBindings s _ rfl

theorem queryLineBody_sameBindings (ps : List Byte) (s : State) : SameBindings s (State.queryLineBody ps s).1 := by
  unfold State.queryLineBody
  split <;> exact .refl s

theorem subscribeBody_sameBindings (ps : List Byte) (s : State) : SameBindings s (State.subscribeBody caller ps s).1 := by
  rw [subscribeBody_frame]
  exact .of_same rfl rfl

theorem unsubscribeBody_sameBindings (ps : List Byte) (s : State) :
    SameBindings s (State.unsubscribeBody caller ps s).1 := by
  rw [unsubscribeBody_frame]
  exact .of_same rfl rfl

theorem attentionBody_sameBindings (ps : List Byte) (s : State) : SameBindings s (State.attentionBody caller ps s).1 := by
  unfold State.attentionBody
  split <;> exact .of_same rfl rfl

end

/-! ### Arrivals, sample ticks and reset -/

theorem takeArrival_sameBindings (i : Line) (v : Level) (rest : List (List LevelChange)) (s : State) :
    SameBindings s (State.takeArrival i v { s with arrivals := rest }) := by
  have taken : SameBindings s { s with
      arrivals := rest, inputs := updateLine s.inputs i fun r => { r with seen := v }
      startUp := s.startUp.filter fun j => j != i } := .of_same rfl rfl
  exact taken.trans (raiseEdges_recordsOnly i v .raw _).sameBindings

theorem sampleLine_sameBindings (s : State) (i : Line) : SameBindings s (s.sampleLine i) :=
  .of_same (congrArg Tables.leases (tables_sampleLine s i)) (sampleLine_beside s i).lines

theorem sampleAll_sameBindings (s : State) : SameBindings s s.sampleAll :=
  asOneEvent_sameBindings s fun t => .foldl sampleLine_sameBindings allLines t

theorem tickWaits_sameBindings (o : Owner) (s : State) : SameBindings s (s.tickWaits o) := .of_same rfl rfl

theorem enterReset_keepsBindings (s : State) : KeepsBindings s s.enterReset := fun _ _ => bindingLaw_reset

theorem pulseReset_keepsBindings (ns : Nat) (s : State) : KeepsBindings s (s.pulseReset ns) := by
  unfold State.pulseReset State.shortPulse
  dsimp only
  repeat' split
  · exact enterReset_keepsBindings s
  · exact .refl s
  · exact (enterReset_keepsBindings { s with freeCount := s.freeCount + 1 }).from_same rfl rfl
  · exact SameBindings.keeps (.of_same rfl rfl)

/-- R64, R66: the board's change of a line leaves it to its holder. -/
theorem externalChange_sameBindings (i : Line) (x : External) (s : State) :
    SameBindings s (State.asOneEvent (fun t => t.writeLine i (t.line i)) (s.setExternal i x)) :=
  have board : SameBindings s (s.setExternal i x) := .of_same rfl rfl
  board.trans (asOneEvent_sameBindings _ fun t => writeLine_sameBindings t i rfl)

/-! ### Every command -/

theorem exec_keepsBindings {i : Instr} {s t : State} (h : exec i s = .next t) : KeepsBindings s t := by
  cases i with
  | deviceReset cause =>
    cases h
    cases cause with
    | powerOn => exact enterReset_keepsBindings s
    | rstLow ns => exact pulseReset_keepsBindings ns s
  | deviceResetEnd x =>
    cases h
    split
    · exact (leaveReset_sameBindings s x).keeps
    · exact .refl s
  | millisecondTick order => exact takes_keepsBindings (fun u => (tick_sameBindings u order).keeps) h
  | settleExpiry i =>
    simp only [exec, execSettleExpiry] at h
    refine takes_keepsBindings (fun u => ?_) h
    split
    · exact (tick_sameBindings u [i]).keeps
    · exact .refl u
  | renewExpiry id =>
    simp only [exec, execRenewExpiry] at h
    refine takes_keepsBindings (fun u => ?_) h
    split
    · rename_i l due
      have live : l ∈ u.opened.leases := dueExpiry_mem due
      have ended : KeepsBindings u.opened (u.opened.endLeaseAndScan l .expiry) :=
        endLeaseAndScan_keepsBindings live .expiry
      have closed : SameBindings (u.opened.endLeaseAndScan l .expiry)
          (State.asOneEvent (State.endLeaseAndScan l .expiry) u) := .of_same rfl rfl
      exact (ended.from_same (s := u) rfl rfl).then closed.law
    · exact .refl u
  | waitLapse ticket =>
    simp only [exec, execWaitLapse] at h
    refine takes_keepsBindings (fun u => ?_) h
    split
    · exact (removeClaims_sameBindings u _ _).keeps.then .scan
    · exact .refl u
  | offerLapse id =>
    simp only [exec, execOfferLapse] at h
    refine takes_keepsBindings (fun u => ?_) h
    split
    · exact ((updateLease_sameBindings u id (f := Lease.activated) fun _ => ⟨rfl, rfl, rfl⟩).trans
        ((raise_recordsOnly _ _ _).trans (raise_recordsOnly _ _ _)).sameBindings).keeps
    · exact .refl u
  | pulseCompletion i =>
    simp only [exec, execPulseCompletion] at h
    refine takes_keepsBindings (fun u => ?_) h
    split
    · exact (asOneEvent_sameBindings u fun v => completePulse_sameBindings v i _).keeps
    all_goals exact .refl u
  | busTimeout p | busError p c | startCondition p | stopCondition p | addressByte p b | commandFrame p bs scl
  | responseRead p as scl => exact portEvent_keepsBindings h
  | claim p => exact takes_keepsBindings (leaseControllerTakes_keepsBindings (claimBody_keepsBindings p)) h
  | cancelClaim p => exact takes_keepsBindings (leaseControllerTakes_keepsBindings (cancelBody_keepsBindings p)) h
  | release p =>
    exact takes_keepsBindings (asOneEvent_keepsBindings
      (leaseControllerTakes_keepsBindings (releaseBody_keepsBindings p))) h
  | renew p =>
    exact takes_keepsBindings (leaseControllerTakes_keepsBindings (.of_same (renewBody_sameBindings p))) h
  | renewAll p =>
    exact takes_keepsBindings (leaseControllerTakes_keepsBindings (.of_same (renewAllBody_sameBindings p))) h
  | queryLease p =>
    exact takes_keepsBindings (leaseControllerTakes_keepsBindings (.of_same queryLeaseBody_sameBindings)) h
  | offer p => exact takes_keepsBindings (leaseControllerTakes_keepsBindings (.of_same (offerBody_sameBindings p))) h
  | accept p => exact takes_keepsBindings (leaseControllerTakes_keepsBindings (acceptBody_keepsBindings p)) h
  | decline p =>
    exact takes_keepsBindings (leaseControllerTakes_keepsBindings (.of_same (declineBody_sameBindings p))) h
  | revoke p =>
    exact takes_keepsBindings (asOneEvent_keepsBindings
      (leaseControllerTakes_keepsBindings (revokeBody_keepsBindings p))) h
  | reserve p => exact takes_keepsBindings (leaseControllerTakes_keepsBindings (reserveBody_keepsBindings p)) h
  | detach p =>
    exact takes_keepsBindings (asOneEvent_keepsBindings
      (leaseControllerTakes_keepsBindings (detachBody_keepsBindings p))) h
  | clearHost p =>
    exact takes_keepsBindings (asOneEvent_keepsBindings
      (leaseControllerTakes_keepsBindings (clearHostBody_keepsBindings p))) h
  | setLevel p =>
    exact takes_keepsBindings (asOneEvent_keepsBindings (ownerTakes_keepsBindings (.of_same (setLevelBody_sameBindings p)))) h
  | configure p =>
    exact takes_keepsBindings (asOneEvent_keepsBindings (ownerTakes_keepsBindings (.of_same (configureBody_sameBindings p)))) h
  | configureMirror p =>
    exact takes_keepsBindings (asOneEvent_keepsBindings
      (ownerTakes_keepsBindings (.of_same (configureMirrorBody_sameBindings p)))) h
  | pulse p =>
    exact takes_keepsBindings (asOneEvent_keepsBindings (ownerTakes_keepsBindings (.of_same (pulseBody_sameBindings p)))) h
  | readLines p => exact takes_keepsBindings (ownerTakes_keepsBindings (.of_same fun _ s => .refl s)) h
  | queryLine p => exact takes_keepsBindings (ownerTakes_keepsBindings (.of_same queryLineBody_sameBindings)) h
  | externalStateChange i x =>
    cases h
    split
    · exact SameBindings.keeps (.of_same rfl rfl)
    · exact (externalChange_sameBindings i x s).keeps
  | filteredReport i =>
    simp only [exec, execFilteredReport] at h
    refine takes_keepsBindings (fun u => ?_) h
    split
    · exact (asOneEvent_keepsBindings (fun v => (takeReport_sameBindings v i _).keeps) _).from_same rfl rfl
    · exact .refl u
  | arrival i =>
    simp only [exec, execArrival] at h
    refine takes_keepsBindings (fun u => ?_) h
    split
    · exact (takeArrival_sameBindings i _ _ u).keeps
    · exact .refl u
  | sampleTick =>
    simp only [exec, execSampleTick] at h
    refine takes_keepsBindings (fun u => ?_) h
    split
    · exact .refl u
    · exact ((sampleAll_sameBindings u).trans (tickWaits_sameBindings _ _)).keeps
  | subscribe p =>
    simp only [exec, execSubscribe] at h
    refine takes_keepsBindings (fun u => ?_) h
    split
    · exact ownerTakes_keepsBindings (.of_same (subscribeBody_sameBindings p)) u
    · exact .refl u
  | unsubscribe p => exact takes_keepsBindings (ownerTakes_keepsBindings (.of_same (unsubscribeBody_sameBindings p))) h
  | poll p => exact takes_keepsBindings (ownerTakes_keepsBindings (.of_same fun _ _ => .of_same rfl rfl)) h
  | attention p => exact takes_keepsBindings (ownerTakes_keepsBindings (.of_same (attentionBody_sameBindings p))) h

theorem step_keepsBindings {s t : State} (h : step s = .next t) : KeepsBindings s t := by
  unfold step at h
  split at h
  · cases h
    exact .refl s
  · exact (exec_keepsBindings h).from_same rfl rfl

/-- Settles O8: grants bind the lines of a lease, lease ends free them, transfers name the new holder, and nothing else
reaches a binding. -/
theorem stepKeepsBindings : Obligations.StepKeepsBindings := fun _ _ h table _ _ law => step_keepsBindings h table law

end Sys2Proof.Machine
end

section
/-! PROOF. The commands of the line matrix: what each refuses and in which order, and what a refusal leaves (R71 to R73, R75,
R94). -/

namespace Sys2Proof.Machine

/-! ### Codes and numbers -/

theorem lineOf_of_large {n : Nat} (large : 23 < n) : lineOf n = none := dif_neg (Nat.not_lt.mpr large)

theorem lineOf_val (i : Line) : lineOf i.val = some i := dif_pos i.isLt

theorem directionOf_of_large : ∀ {n : Nat}, 1 < n → directionOf n = none
  | _ + 2, _ => rfl

theorem directionOf_of_small {n : Nat} (small : n < 2) : ∃ d, directionOf n = some d := by
  interval_cases n <;> exact ⟨_, rfl⟩

theorem driveOf_of_large : ∀ {n : Nat}, 3 < n → driveOf n = none
  | _ + 4, _ => rfl

theorem driveOf_of_small {n : Nat} (small : n < 4) : ∃ v, driveOf n = some v := by
  interval_cases n <;> exact ⟨_, rfl⟩

theorem pullOf_of_large : ∀ {n : Nat}, 2 < n → pullOf n = none
  | _ + 3, _ => rfl

theorem pullOf_of_small {n : Nat} (small : n < 3) : ∃ u, pullOf n = some u := by
  interval_cases n <;> exact ⟨_, rfl⟩

theorem bitOf_of_large : ∀ {n : Nat}, 1 < n → bitOf n = none
  | _ + 2, _ => rfl

theorem bitOf_of_small {n : Nat} (small : n < 2) : ∃ b, bitOf n = some b := by
  interval_cases n <;> exact ⟨_, rfl⟩

theorem bitOf_bit (b : Bool) : bitOf (if b then 1 else 0) = some b := by cases b <;> rfl

/-- R75, R183: the settings a CONFIGURE names, once each code is read. -/
theorem lineSettings_of {ps : List Byte} {i : Line} {d : Direction} {v : Drive} {u : Pull}
    (line : (param ps 1).toNat = i.val) (direction : directionOf (param ps 2).toNat = some d)
    (drive : driveOf (param ps 3).toNat = some v) (pull : pullOf (param ps 4).toNat = some u) :
    lineSettings ps = some ⟨i, d, v, u⟩ := by
  simp only [lineSettings, line, lineOf_val, direction, drive, pull]

/-- R75: a line or a code out of range. -/
theorem lineSettings_of_large {ps : List Byte} (large : 23 < (param ps 1).toNat ∨ 1 < (param ps 2).toNat
    ∨ 3 < (param ps 3).toNat ∨ 2 < (param ps 4).toNat) : lineSettings ps = none := by
  unfold lineSettings
  split
  · rename_i line direction drive pull
    rcases large with large | large | large | large
    · simp [lineOf_of_large large] at line
    · simp [directionOf_of_large large] at direction
    · simp [driveOf_of_large large] at drive
    · simp [pullOf_of_large large] at pull
  · rfl

/-! ### The holder check -/

section

variable {s : State} {caller : Host} {lease : Nat} {named : List Line}

/-- R71: a line is bound to the lease with the id. -/
theorem bound_iff (s : State) (lease : Nat) :
    (allLines.all fun i => (s.line i).holder.map (fun b => b.lease) != some lease) = true
      ↔ ∀ x b, (s.line x).holder = some b → b.lease ≠ lease := by
  simp only [List.all_eq_true, mem_allLines, true_implies, bne_iff_ne]
  refine forall_congr' fun x => ?_
  cases (s.line x).holder <;> simp

theorem holderCheck_noLease (h : lease = 0 ∨ ∀ x b, (s.line x).holder = some b → b.lease ≠ lease) :
    s.holderCheck caller lease named = some .noLease := by
  rw [← bound_iff] at h
  unfold State.holderCheck
  rw [if_pos h]

theorem holderCheck_notHolder (id : lease ≠ 0) (bound : ∃ x b, (s.line x).holder = some b ∧ b.lease = lease)
    (other : ∃ x ∈ named, (s.line x).holder ≠ some ⟨lease, caller⟩) :
    s.holderCheck caller lease named = some .notHolder := by
  obtain ⟨x, b, holder, same⟩ := bound
  obtain ⟨y, hy, other⟩ := other
  have live : ¬ (lease = 0 ∨ (allLines.all fun i => (s.line i).holder.map (fun b => b.lease) != some lease) = true) := by
    rw [bound_iff]
    exact not_or.mpr ⟨id, fun h => h x b holder same⟩
  have names : ¬ (named.all fun i => (s.line i).holder == some ⟨lease, caller⟩) = true := fun all =>
    other (by simpa using List.all_eq_true.mp all y hy)
  unfold State.holderCheck
  rw [if_neg live, if_neg names]

theorem holderCheck_held (id : lease ≠ 0) (some_named : named ≠ [])
    (own : ∀ x ∈ named, (s.line x).holder = some ⟨lease, caller⟩) : s.holderCheck caller lease named = none := by
  obtain ⟨x, hx⟩ := List.exists_mem_of_ne_nil named some_named
  have live : ¬ (lease = 0 ∨ (allLines.all fun i => (s.line i).holder.map (fun b => b.lease) != some lease) = true) := by
    rw [bound_iff]
    exact not_or.mpr ⟨id, fun h => h x _ (own x hx) rfl⟩
  have names : (named.all fun i => (s.line i).holder == some ⟨lease, caller⟩) = true := by simpa using own
  unfold State.holderCheck
  rw [if_neg live, if_pos names]

end

/-! ### The checks of each command -/

section

variable {s : State} {caller : Host} {ps : List Byte} {st : Status}

theorem setLevelCheck_badParam {lease : Nat} {m : LineMask} (empty : m = 0) :
    s.setLevelCheck caller lease m = some .badParam := by
  unfold State.setLevelCheck
  rw [if_pos empty]

theorem setLevelCheck_held {lease : Nat} {m : LineMask} (some_named : m ≠ 0)
    (held : s.holderCheck caller lease (maskLines m) = some st) : s.setLevelCheck caller lease m = some st := by
  unfold State.setLevelCheck
  rw [if_neg some_named, held]

theorem setLevelCheck_busy {lease : Nat} {m : LineMask} (some_named : m ≠ 0)
    (held : s.holderCheck caller lease (maskLines m) = none) (busy : ∃ x ∈ maskLines m, (s.line x).function ≠ .plain) :
    s.setLevelCheck caller lease m = some .busy := by
  have notPlain : ¬ ((maskLines m).all fun i => (s.line i).function == .plain) = true := by
    obtain ⟨x, hx, other⟩ := busy
    exact fun all => other (by simpa using List.all_eq_true.mp all x hx)
  unfold State.setLevelCheck
  rw [if_neg some_named, held]
  exact if_neg notPlain

theorem configureCheck_badParam (large : lineSettings ps = none ∨ 1 < (param ps 5).toNat) :
    s.configureCheck caller ps = .error .badParam := by
  unfold State.configureCheck
  rcases large with large | large
  · rw [large]
  · rw [bitOf_of_large large]
    split
    · rename_i code
      cases code
    · rfl

section

variable {x : LineSettings} (settings : lineSettings ps = some x) (code : (param ps 5).toNat < 2)

include settings code

theorem configureCheck_held (held : s.holderCheck caller (param ps 0).toNat [x.line] = some st) :
    s.configureCheck caller ps = .error st := by
  obtain ⟨b, code⟩ := bitOf_of_small code
  simp only [State.configureCheck, settings, code, held]

theorem configureCheck_busy (held : s.holderCheck caller (param ps 0).toNat [x.line] = none)
    (busy : (s.line x.line).pulsing = true) : s.configureCheck caller ps = .error .busy := by
  obtain ⟨b, code⟩ := bitOf_of_small code
  simp only [State.configureCheck, settings, code, held, busy, if_true]

theorem configureCheck_passed (held : s.holderCheck caller (param ps 0).toNat [x.line] = none)
    (idle : (s.line x.line).pulsing = false) : s.configureCheck caller ps = .ok x := by
  obtain ⟨b, code⟩ := bitOf_of_small code
  simp only [State.configureCheck, settings, code, held, idle, Bool.false_eq_true, if_false]

end

theorem pulseCheck_badParam
    (large : 23 < (param ps 1).toNat ∨ 1 < (param ps 2).toNat ∨ param16 ps 3 = 0) :
    s.pulseCheck caller ps = .error .badParam := by
  unfold State.pulseCheck
  split
  · rename_i line level
    rcases large with large | large | zero
    · simp [lineOf_of_large large] at line
    · simp [bitOf_of_large large] at level
    · rw [if_pos zero]
  · rfl

section

variable {x : Line} (line : (param ps 1).toNat = x.val) (level : (param ps 2).toNat < 2) (duration : param16 ps 3 ≠ 0)

include line level duration

theorem pulseCheck_held (held : s.holderCheck caller (param ps 0).toNat [x] = some st) :
    s.pulseCheck caller ps = .error st := by
  obtain ⟨v, level⟩ := bitOf_of_small level
  simp only [State.pulseCheck, line, lineOf_val, level, duration, held, if_false]

theorem pulseCheck_busy (held : s.holderCheck caller (param ps 0).toNat [x] = none)
    (busy : (s.line x).function ≠ .plain) : s.pulseCheck caller ps = .error .busy := by
  obtain ⟨v, level⟩ := bitOf_of_small level
  simp only [State.pulseCheck, line, lineOf_val, level, duration, held, bne_iff_ne, ne_eq, busy, not_false_eq_true,
    if_true, if_false]

end

end

/-! ### One command of the line matrix -/

section

variable {i : Instr} {s u : State} {p : Host} {cmd : Cmd} {tag : Byte} {r : Reply} {lines : List Line}
  {applies : List Byte → Bool} {body : List Byte → State → State × Reply}

theorem ports_asOneEvent (f : State → State) (s : State) : (State.asOneEvent f s).ports = (f s.opened).ports := rfl

/-- R66, R70, R169: what a command of the line matrix leaves: the lines, records and changes of its body as one event, and
the answer at its port. -/
theorem exec_lineMatrix (meaning : exec i s = s.lineMatrixTakes p cmd applies body) (waiting : Waiting s p cmd tag)
    (params : applies (s.port p).params = true) (hb : body (s.port p).params s.opened = (u, r))
    (frame : LinesOnly s.opened u) (hands : HandsOn (rawChanges lines s.opened u) s.opened u) :
    ∃ t, exec i s = .next t
      ∧ t = { s with lines := u.lines, arrivals := t.arrivals, queues := u.queues, ports := t.ports }
      ∧ HandedOn lines s t ∧ Answered p tag cmd r.status r.data s t := by
  obtain ⟨running, slot⟩ := waiting
  have taken : s.opened.ownerTakes p cmd applies body = u.updatePort p (PortState.placeResult tag cmd r) := by
    have own := ownerTakes_waiting (s := s.opened) (p := p) (body := body) slot params
    have same : s.opened.port p = s.port p := rfl
    rwa [same, hb] at own
  have frame' : LinesAndPorts s.opened (u.updatePort p (PortState.placeResult tag cmd r)) := by
    rw [LinesAndPorts, frame]
    rfl
  have event := asOneEvent_lines taken frame' hands
  refine ⟨_, meaning.trans (takes_running running), ?_, asOneEvent_handedOn taken frame' hands, ?_⟩
  · rw [event]
    rfl
  · exact (answered_placeResult (s := s) frame.ports).of_ports (by rw [event])

/-- R72: a command of the line matrix whose body changes nothing. -/
theorem exec_lineMatrix_kept (meaning : exec i s = s.lineMatrixTakes p cmd applies body) (waiting : Waiting s p cmd tag)
    (params : applies (s.port p).params = true) (hb : body (s.port p).params s.opened = (s.opened, r)) :
    ∃ t, exec i s = .next t ∧ t = { s with ports := t.ports } ∧ Answered p tag cmd r.status r.data s t := by
  obtain ⟨t, ht, frame, handed, answered⟩ :=
    exec_lineMatrix (lines := []) meaning waiting params hb (.refl _) (.of_same rfl)
  have arrivals : t.arrivals = s.arrivals := by simpa [HandedOn, rawChanges] using handed
  refine ⟨t, ht, ?_, answered⟩
  rw [frame, arrivals]
  rfl

/-- R78, R79: a query. -/
theorem exec_query (meaning : exec i s = s.takes (State.ownerTakes p cmd applies body)) (waiting : Waiting s p cmd tag)
    (params : applies (s.port p).params = true) (hb : body (s.port p).params s = (s, r)) :
    ∃ t, exec i s = .next t ∧ t = { s with ports := t.ports } ∧ Answered p tag cmd r.status r.data s t := by
  obtain ⟨running, slot⟩ := waiting
  refine ⟨_, meaning.trans (takes_running running), ?_⟩
  rw [ownerTakes_waiting slot params, hb]
  exact ⟨rfl, answered_placeResult rfl⟩

end

/-! ### Refusals -/

section

variable {s : State} {p : Host} {tag : Byte} {st : Status}

theorem exec_setLevel_refused (waiting : Waiting s p .setLevel tag)
    (refused : s.setLevelCheck p (s.arg p 0) (paramMask (s.port p).params 1) = some st) :
    ∃ t, exec (.setLevel p) s = .next t ∧ t = { s with ports := t.ports } ∧ Answered p tag .setLevel st [] s t := by
  refine exec_lineMatrix_kept (r := Reply.refuse st) (body := State.setLevelBody p) rfl waiting rfl ?_
  have check : s.opened.setLevelCheck p (param (s.port p).params 0).toNat (paramMask (s.port p).params 1) = some st :=
    refused
  simp only [State.setLevelBody, check]

/-- R75, R183: the function code of a CONFIGURE asks for MIRROR. -/
theorem asksMirror (code : s.arg p 5 = 1) : (param (s.port p).params 5 == mirrorCode) = true :=
  beq_iff_eq.mpr (BitVec.eq_of_toNat_eq code)

theorem asksNoMirror (code : s.arg p 5 ≠ 1) : (param (s.port p).params 5 != mirrorCode) = true :=
  bne_iff_ne.mpr fun same => code (congrArg BitVec.toNat same)

theorem exec_configure_refused (waiting : Waiting s p .configure tag) (code : s.arg p 5 ≠ 1)
    (refused : s.configureCheck p (s.port p).params = .error st) :
    ∃ t, exec (.configure p) s = .next t ∧ t = { s with ports := t.ports } ∧ Answered p tag .configure st [] s t := by
  refine exec_lineMatrix_kept (r := Reply.refuse st) (body := State.configureBody p) rfl waiting (asksNoMirror code) ?_
  have check : s.opened.configureCheck p (s.port p).params = .error st := refused
  simp only [State.configureBody, check]

theorem exec_configureMirror_refused (waiting : Waiting s p .configure tag) (code : s.arg p 5 = 1)
    (refused : s.configureCheck p (s.port p).params = .error st) :
    ∃ t, exec (.configureMirror p) s = .next t ∧ t = { s with ports := t.ports }
      ∧ Answered p tag .configure st [] s t := by
  refine exec_lineMatrix_kept (r := Reply.refuse st) (body := State.configureMirrorBody p) rfl waiting
    (asksMirror code) ?_
  have check : s.opened.configureCheck p (s.port p).params = .error st := refused
  simp only [State.configureMirrorBody, check]

theorem exec_pulse_refused (waiting : Waiting s p .pulse tag)
    (refused : s.pulseCheck p (s.port p).params = .error st) :
    ∃ t, exec (.pulse p) s = .next t ∧ t = { s with ports := t.ports } ∧ Answered p tag .pulse st [] s t := by
  refine exec_lineMatrix_kept (r := Reply.refuse st) (body := State.pulseBody p) rfl waiting rfl ?_
  have check : s.opened.pulseCheck p (s.port p).params = .error st := refused
  simp only [State.pulseBody, check]

end

/-- R71, R73, R75, R94: the command names these lines, and its form is right. -/
def NamesLines (s : State) (p : Host) (i : Instr) (cmd : Cmd) (named : List Line) : Prop :=
  i = .setLevel p ∧ cmd = .setLevel ∧ paramMask (s.port p).params 1 ≠ 0
      ∧ named = maskLines (paramMask (s.port p).params 1)
    ∨ i = .configure p ∧ cmd = .configure ∧ s.arg p 2 < 2 ∧ s.arg p 3 < 4 ∧ s.arg p 4 < 3 ∧ s.arg p 5 = 0
      ∧ named.map (fun x => x.val) = [s.arg p 1]
    ∨ i = .configureMirror p ∧ cmd = .configure ∧ s.arg p 2 < 2 ∧ s.arg p 3 < 4 ∧ s.arg p 4 < 3 ∧ s.arg p 5 = 1
      ∧ named.map (fun x => x.val) = [s.arg p 1]
    ∨ i = .pulse p ∧ cmd = .pulse ∧ s.arg p 2 < 2 ∧ param16 (s.port p).params 3 ≠ 0
      ∧ named.map (fun x => x.val) = [s.arg p 1]

/-- R71, R73, R75, R94: a named line whose function stands in the way of the command. -/
def Stands (s : State) (cmd : Cmd) (x : Line) : Prop :=
  (s.line x).pulsing = true ∨ (cmd = .setLevel ∨ cmd = .pulse) ∧ (s.line x).function ≠ .plain

theorem function_of_pulsing {r : LineRec} (pulsing : r.pulsing = true) : r.function ≠ .plain := by
  intro plain
  simp [LineRec.pulsing, plain] at pulsing

theorem singleton_of_vals {named : List Line} {n : Nat} (h : named.map (fun x => x.val) = [n]) :
    ∃ x : Line, named = [x] ∧ n = x.val := by
  obtain ⟨x, rfl, e⟩ := List.map_eq_singleton_iff.mp h
  exact ⟨x, rfl, e.symm⟩

/-- R71, R73, R75, R94: a command of right form is refused as the holder check says, and after it as the functions of its
lines say. -/
theorem exec_lineCommand_refused {s : State} {p : Host} {tag : Byte} {i : Instr} {cmd : Cmd} {named : List Line}
    {st : Status} (waiting : Waiting s p cmd tag) (names : NamesLines s p i cmd named)
    (refused : s.holderCheck p (s.arg p 0) named = some st
      ∨ s.holderCheck p (s.arg p 0) named = none ∧ (∃ x ∈ named, Stands s cmd x) ∧ st = .busy) :
    ∃ t, exec i s = .next t ∧ t = { s with ports := t.ports } ∧ Answered p tag cmd st [] s t := by
  have configured : ∀ {x : Line}, s.arg p 1 = x.val → s.arg p 2 < 2 → s.arg p 3 < 4 → s.arg p 4 < 3 → s.arg p 5 < 2 →
      (s.holderCheck p (s.arg p 0) [x] = some st
        ∨ s.holderCheck p (s.arg p 0) [x] = none ∧ (s.line x).pulsing = true ∧ st = .busy) →
      s.configureCheck p (s.port p).params = .error st := by
    intro x line direction drive pull code refused
    obtain ⟨d, direction⟩ := directionOf_of_small direction
    obtain ⟨v, drive⟩ := driveOf_of_small drive
    obtain ⟨u, pull⟩ := pullOf_of_small pull
    have settings := lineSettings_of line direction drive pull
    rcases refused with held | ⟨held, busy, rfl⟩
    · exact configureCheck_held settings code held
    · exact configureCheck_busy settings code held busy
  rcases names with ⟨rfl, rfl, mask, rfl⟩ | ⟨rfl, rfl, direction, drive, pull, code, line⟩
    | ⟨rfl, rfl, direction, drive, pull, code, line⟩ | ⟨rfl, rfl, level, duration, line⟩
  · refine exec_setLevel_refused waiting ?_
    rcases refused with held | ⟨held, ⟨x, hx, stands⟩, rfl⟩
    · exact setLevelCheck_held mask held
    · exact setLevelCheck_busy mask held ⟨x, hx, stands.elim function_of_pulsing fun h => h.2⟩
  · obtain ⟨x, rfl, value⟩ := singleton_of_vals line
    refine exec_configure_refused waiting (by omega) (configured value direction drive pull (by omega) ?_)
    simpa [Stands] using refused
  · obtain ⟨x, rfl, value⟩ := singleton_of_vals line
    refine exec_configureMirror_refused waiting code (configured value direction drive pull (by omega) ?_)
    simpa [Stands] using refused
  · obtain ⟨x, rfl, value⟩ := singleton_of_vals line
    refine exec_pulse_refused waiting ?_
    rcases refused with held | ⟨held, ⟨y, hy, stands⟩, rfl⟩
    · exact pulseCheck_held value level duration held
    · cases List.mem_singleton.mp hy
      exact pulseCheck_busy value level duration held (stands.elim function_of_pulsing fun h => h.2)

/-- Settles O39: the form, then the holder check, then the functions of the named lines. -/
theorem lineCommandRefusalsInOrder : Obligations.LineCommandRefusalsInOrder := by
  intro s p tag i cmd waiting
  refine ⟨?_, fun named names => ⟨fun unknown => ?_, fun id bound other => ?_, fun id own stands => ?_⟩⟩
  · rintro (⟨rfl, rfl, empty⟩ | ⟨rfl, rfl, code, large⟩ | ⟨rfl, rfl, code, large⟩ | ⟨rfl, rfl, large⟩)
    · exact exec_setLevel_refused waiting (setLevelCheck_badParam empty)
    · refine exec_configure_refused waiting code (configureCheck_badParam ?_)
      rcases large with large | large | large | large | large
      · exact .inl (lineSettings_of_large (.inl large))
      · exact .inl (lineSettings_of_large (.inr (.inl large)))
      · exact .inl (lineSettings_of_large (.inr (.inr (.inl large))))
      · exact .inl (lineSettings_of_large (.inr (.inr (.inr large))))
      · exact .inr large
    · exact exec_configureMirror_refused waiting code (configureCheck_badParam (.inl (lineSettings_of_large large)))
    · exact exec_pulse_refused waiting (pulseCheck_badParam large)
  · exact exec_lineCommand_refused waiting names (.inl (holderCheck_noLease unknown))
  · exact exec_lineCommand_refused waiting names (.inl (holderCheck_notHolder id bound other))
  · obtain ⟨x, hx, stands⟩ := stands
    have held := holderCheck_held id (List.ne_nil_of_mem hx) own
    exact exec_lineCommand_refused waiting names (.inr ⟨held, ⟨x, hx, stands⟩, rfl⟩)

/-! ### What a refusal leaves -/

/-- R72: a body refuses and changes nothing, or answers OK. -/
def RefusesOrOk (body : List Byte → State → State × Reply) : Prop :=
  ∀ ps s, (∃ st, body ps s = (s, Reply.refuse st)) ∨ (body ps s).2.status = .ok

theorem setLevelBody_refusesOrOk (caller : Host) : RefusesOrOk (State.setLevelBody caller) := by
  intro ps s
  unfold State.setLevelBody
  split
  · exact .inl ⟨_, rfl⟩
  · exact .inr rfl

theorem configureBody_refusesOrOk (caller : Host) : RefusesOrOk (State.configureBody caller) := by
  intro ps s
  unfold State.configureBody
  split
  · exact .inl ⟨_, rfl⟩
  · exact .inr rfl

theorem configureMirrorBody_refusesOrOk (caller : Host) : RefusesOrOk (State.configureMirrorBody caller) := by
  intro ps s
  unfold State.configureMirrorBody
  split
  · exact .inl ⟨_, rfl⟩
  · split
    · exact .inl ⟨_, rfl⟩
    · exact .inr rfl

theorem pulseBody_refusesOrOk (caller : Host) : RefusesOrOk (State.pulseBody caller) := by
  intro ps s
  unfold State.pulseBody
  split
  · exact .inl ⟨_, rfl⟩
  · exact .inr rfl

theorem readLinesBody_refusesOrOk : RefusesOrOk State.readLinesBody := fun _ _ => .inr rfl

theorem queryLineBody_refusesOrOk : RefusesOrOk State.queryLineBody := by
  intro ps s
  unfold State.queryLineBody
  split
  · exact .inl ⟨_, rfl⟩
  · exact .inr rfl

section

variable {i : Instr} {s t : State} {p : Host} {cmd : Cmd} {tag tag' code : Byte} {st : Status} {data : List Byte}
  {applies : List Byte → Bool} {body : List Byte → State → State × Reply}

/-- R72: a port that is answered shows the status of the answer. -/
theorem Answered.status {st' : Status} {data' : List Byte} (answered : Answered p tag cmd st' data' s t)
    (slot : (t.port p).slot = .ready st tag' code data) : st' = st := by
  rw [answered.2] at slot
  exact (Slot.ready.inj slot).1

/-- R72: a command of the line matrix that answers a status other than OK has changed nothing. -/
theorem lineMatrix_refused (meaning : exec i s = s.lineMatrixTakes p cmd applies body)
    (body_ok : RefusesOrOk body) (frame : ∀ ps s, LinesOnly s (body ps s).1) (waiting : Waiting s p cmd tag)
    (params : applies (s.port p).params = true) (hx : exec i s = .next t)
    (slot : (t.port p).slot = .ready st tag' code data) (notOk : st ≠ .ok) :
    t = { s with ports := t.ports } ∧ Answered p tag cmd st [] s t := by
  rcases body_ok (s.port p).params s.opened with ⟨st', refused⟩ | ok
  · obtain ⟨t', ht', kept, answered⟩ := exec_lineMatrix_kept meaning waiting params refused
    cases ht'.symm.trans hx
    cases answered.status slot
    exact ⟨kept, answered⟩
  · have taken := (ownerTakes_waiting (s := s.opened) (body := body) waiting.2 params)
    have answered : Answered p tag cmd _ _ s (State.asOneEvent (State.ownerTakes p cmd applies body) s) :=
      (answered_placeResult (frame _ s.opened).ports).of_ports ((ports_asOneEvent _ s).trans (congrArg State.ports taken))
    rw [meaning, State.lineMatrixTakes, takes_running waiting.1] at hx
    cases hx
    exact absurd ((answered.status slot).symm.trans ok) notOk

/-- R72: the same of a query. -/
theorem query_refused (meaning : exec i s = s.takes (State.ownerTakes p cmd applies body)) (body_ok : RefusesOrOk body)
    (same : ∀ ps s, (body ps s).1 = s) (waiting : Waiting s p cmd tag) (params : applies (s.port p).params = true)
    (hx : exec i s = .next t) (slot : (t.port p).slot = .ready st tag' code data) (notOk : st ≠ .ok) :
    t = { s with ports := t.ports } ∧ Answered p tag cmd st [] s t := by
  have hb : body (s.port p).params s = (s, (body (s.port p).params s).2) := Prod.ext (same _ s) rfl
  obtain ⟨t', ht', kept, answered⟩ := exec_query meaning waiting params hb
  cases ht'.symm.trans hx
  have status := answered.status slot
  rcases body_ok (s.port p).params s with ⟨st', refused⟩ | ok
  · rw [refused] at answered status
    cases status
    exact ⟨kept, answered⟩
  · exact absurd (status.symm.trans ok) notOk

end

/-- Settles O55: each body of the line matrix refuses and changes nothing, or answers OK. -/
theorem refusedLineCommandsChangeNothing : Obligations.RefusedLineCommandsChangeNothing := by
  intro i s t p cmd tag tag' code st data hi owner waiting params hx slot notOk
  cases i with
  | setLevel q =>
    cases hi
    exact lineMatrix_refused rfl (setLevelBody_refusesOrOk p) (setLevelBody_linesOnly p) waiting rfl hx slot notOk
  | configure q =>
    cases hi
    exact lineMatrix_refused rfl (configureBody_refusesOrOk p) (configureBody_linesOnly p) waiting params hx slot notOk
  | configureMirror q =>
    cases hi
    exact lineMatrix_refused rfl (configureMirrorBody_refusesOrOk p) (configureMirrorBody_linesOnly p) waiting params hx
      slot notOk
  | pulse q =>
    cases hi
    exact lineMatrix_refused rfl (pulseBody_refusesOrOk p) (pulseBody_linesOnly p) waiting rfl hx slot notOk
  | readLines q =>
    cases hi
    exact query_refused rfl readLinesBody_refusesOrOk (fun _ _ => rfl) waiting rfl hx slot notOk
  | queryLine q =>
    cases hi
    refine query_refused rfl queryLineBody_refusesOrOk (fun ps u => ?_) waiting rfl hx slot notOk
    unfold State.queryLineBody
    split <;> rfl
  | claim | cancelClaim | release | renew | renewAll | queryLease | offer | accept | decline | revoke | reserve | detach
  | clearHost | subscribe | unsubscribe | poll | attention =>
    cases hi
    cases owner
  | deviceReset | deviceResetEnd | millisecondTick | settleExpiry | renewExpiry | waitLapse | offerLapse
  | pulseCompletion | busTimeout | busError | startCondition | stopCondition | addressByte | commandFrame | responseRead
  | externalStateChange | filteredReport | arrival | sampleTick => cases hi

end Sys2Proof.Machine
end

section
/-! PROOF. What SET_LEVEL, CONFIGURE, READ_LINES and QUERY_LINE do when nothing refuses them (R74, R76, R78, R79, R89, R91). -/

namespace Sys2Proof.Machine

/-! ### SET_LEVEL -/

/-- The changes of lines of which only some may move are those of these lines. -/
theorem rawChanges_filter {p : Line → Bool} {s t : State} (kept : ∀ i, p i = false → (t.line i).raw = (s.line i).raw) :
    rawChanges (allLines.filter p) s t = rawChanges allLines s t := by
  unfold rawChanges
  rw [List.filter_filter]
  refine congrArg _ (List.filter_congr fun i _ => ?_)
  cases moves : p i with
  | false => simp [kept i moves]
  | true => simp

/-- R74: the output levels of the lines of a mask written, in ascending order. -/
def State.writeLevels (m levels : LineMask) (s : State) : State := (maskLines m).foldl (State.writeLevel levels) s

section

variable (m levels : LineMask) (s : State)

/-- R74: what SET_LEVEL makes of the record of one named line. -/
theorem line_writeLevel (i j : Line) : (s.writeLevel levels i).line j =
    if j = i then LineRec.after s.external[i] (s.line i) { s.line i with level := levels.getLsbD i.val }
    else s.line j :=
  line_driveLine (s := s) (i := i) (r := { s.line i with level := levels.getLsbD i.val }) rfl rfl j

theorem writeLevels_linesOnly : LinesOnly s (s.writeLevels m levels) :=
  .foldl (fun t i => driveLine_linesOnly i _ t) _ s

/-- R74: the lines after the levels of those of a mask are written. -/
theorem line_writeLevels (j : Line) : (s.writeLevels m levels).line j =
    if m.getLsbD j.val then LineRec.after s.external[j] (s.line j) { s.line j with level := levels.getLsbD j.val }
    else s.line j := by
  have folded := line_foldl (g := State.writeLevel levels)
    (f := fun x i r => LineRec.after x[i] r { r with level := levels.getLsbD i.val })
    (fun t i => (driveLine_linesOnly i _ t).external)
    (line_writeLevel levels) (nodup_maskLines m) s j
  simp only [mem_maskLines] at folded
  exact folded

/-- R66, R74: the changes of raw level are handed on in ascending line order. -/
theorem handsOn_writeLevels : HandsOn (rawChanges allLines s (s.writeLevels m levels)) s (s.writeLevels m levels) := by
  have folded := handsOn_foldl (g := State.writeLevel levels) (key := id)
    (fun u i j (other : j ≠ i) => by rw [line_writeLevel, if_neg other])
    (fun u i => handsOn_driveLine (s := u) (i := i) (r := { u.line i with level := levels.getLsbD i.val }) rfl)
    (maskLines m) (by simpa using nodup_maskLines m) s
  have changes : rawChanges (maskLines m) s (s.writeLevels m levels) = rawChanges allLines s (s.writeLevels m levels) :=
    rawChanges_filter fun i unnamed => by rw [line_writeLevels, if_neg (by simpa using unnamed)]
  rw [List.map_id] at folded
  exact changes ▸ folded

theorem queues_writeLevels : (s.writeLevels m levels).queues = s.queues :=
  foldl_rel (rel := fun s t : State => t.queues = s.queues) (fun _ => rfl) (fun h k => k.trans h)
    (fun t i => queues_writeLine t i _) (maskLines m) s

end

/-- R73: a mask that is not 0 names a line. -/
theorem maskLines_ne_nil {m : LineMask} (h : m ≠ 0) : maskLines m ≠ [] := by
  refine fun empty => h (BitVec.eq_of_getLsbD_eq fun k hk => ?_)
  have unnamed : (⟨k, hk⟩ : Line) ∉ maskLines m := by simp [empty]
  rw [mem_maskLines, Bool.not_eq_true] at unnamed
  rw [unnamed]
  simp

theorem setLevelCheck_passed {s : State} {caller : Host} {lease : Nat} {m : LineMask} (named : m ≠ 0)
    (held : s.holderCheck caller lease (maskLines m) = none) (plain : ∀ i ∈ maskLines m, (s.line i).function = .plain) :
    s.setLevelCheck caller lease m = none := by
  have all : ((maskLines m).all fun i => (s.line i).function == .plain) = true := by simpa using plain
  unfold State.setLevelCheck
  rw [if_neg named, held]
  exact if_pos all

/-- Settles O40: each named line is driven with its new level, in ascending order. -/
theorem setLevelWritesTheNamedLines : Obligations.SetLevelWritesTheNamedLines := by
  intro s p tag waiting id mask named
  have held := holderCheck_held id (maskLines_ne_nil mask) fun i hi => (named i hi).1
  have check : s.opened.setLevelCheck p (param (s.port p).params 0).toNat (paramMask (s.port p).params 1) = none :=
    setLevelCheck_passed (s := s) mask held fun i hi => (named i hi).2
  have body : State.setLevelBody p (s.port p).params s.opened =
      (s.opened.writeLevels (paramMask (s.port p).params 1) (paramMask (s.port p).params 4), Reply.ok) := by
    simp only [State.setLevelBody, check]
    rfl
  obtain ⟨t, ht, frame, handed, answered⟩ :=
    exec_lineMatrix (i := .setLevel p) (applies := fun _ => true) rfl waiting rfl body
      (writeLevels_linesOnly _ _ _) (handsOn_writeLevels _ _ _)
  rw [queues_writeLevels] at frame
  refine ⟨t, ht, ?_, fun i => ?_, handed, answered⟩
  · rw [frame]
    rfl
  · exact (line_congr (congrArg State.lines frame) i).trans (line_writeLevels _ _ s.opened i)

/-! ### CONFIGURE -/

section

variable {s : State} {x : Line} {r : LineRec}

/-- R88: line `x` written with a record that follows another source than itself, and presented. -/
def State.writeAndPresent (x : Line) (r : LineRec) (s : State) : State := (s.writeLine x r).present x

theorem writeAndPresent_linesOnly (x : Line) (r : LineRec) (s : State) : LinesOnly s (s.writeAndPresent x r) :=
  (writeLine_linesOnly x r s).trans (present_linesOnly x _)

theorem followsSource_writeLine (other : ∀ invert, r.function ≠ .mirror x invert false) (i : Line) :
    (s.writeLine x r).followsSource x i = (decide (i ≠ x) && s.followsSource x i) := by
  by_cases same : i = x
  · subst same
    have function : ((s.writeLine i r).line i).function = r.function := by rw [line_writeLine, if_pos rfl]
    unfold State.followsSource
    rw [function]
    split
    · rename_i src invert e
      have ne : src ≠ i := fun same => other invert (same ▸ e)
      simp [ne]
    all_goals simp
  · have line : (s.writeLine x r).line i = s.line i := by rw [line_writeLine, if_neg same]
    rw [followsSource_eq (congrArg LineRec.function line)]
    simp [same]

theorem direction_writeLine : ((s.writeLine x r).line x).direction = r.direction := by rw [line_writeLine, if_pos rfl]

/-- R66, R91: the lines after a record is written and presented. -/
theorem line_writeAndPresent (other : ∀ invert, r.function ≠ .mirror x invert false) (i : Line) :
    (s.writeAndPresent x r).line i =
      if i = x then r.evaluated s.external[x]
      else if r.direction = .output ∧ s.followsSource x i = true then
        LineRec.after s.external[i] (s.line i) (s.line i).withFault
      else s.line i := by
  unfold State.writeAndPresent
  rw [line_present, direction_writeLine, followsSource_writeLine other, (writeLine_linesOnly x r s).external,
    line_writeLine_eq]
  by_cases same : i = x <;> simp [same]

/-- R66: the line's own change of raw level is handed on first, then those of its mirrors in ascending order. -/
theorem handsOn_writeAndPresent (raw : r.raw = (s.line x).raw) (other : ∀ invert, r.function ≠ .mirror x invert false) :
    HandsOn (rawChanges (x :: allLines.filter fun i => i != x) s (s.writeAndPresent x r)) s
      (s.writeAndPresent x r) := by
  have own : (s.writeAndPresent x r).line x = (s.writeLine x r).line x := by
    rw [line_writeAndPresent other, line_writeLine_eq, if_pos rfl, if_pos rfl]
  have beside : ∀ i ∈ allLines.filter fun i => i != x, (s.line i).raw = ((s.writeLine x r).line i).raw := fun i hi => by
    have ne : i ≠ x := by simpa using (List.mem_filter.mp hi).2
    rw [line_writeLine_eq, if_neg ne]
  have first : rawChanges [x] s (s.writeLine x r) = rawChanges [x] s (s.writeAndPresent x r) :=
    rawChanges_congr (fun _ _ => rfl) fun i hi => by rw [List.mem_singleton.mp hi, own]
  have rest : rawChanges allLines (s.writeLine x r) (s.writeAndPresent x r)
      = rawChanges (allLines.filter fun i => i != x) s (s.writeAndPresent x r) := by
    refine Eq.trans ?_ (rawChanges_congr beside fun _ _ => rfl).symm
    refine (rawChanges_filter fun i same => ?_).symm
    have same : i = x := by simpa using same
    rw [same, own]
  have hands := (handsOn_writeLine raw).trans (handsOn_present x (s.writeLine x r))
  change HandsOn (_ ++ rawChanges allLines _ (s.writeAndPresent x r)) s (s.writeAndPresent x r) at hands
  rw [first, rest, ← rawChanges_append] at hands
  exact hands

/-- R91: the holders of its mirrors are told where the line is OUT. -/
theorem received_writeAndPresent (other : ∀ invert, r.function ≠ .mirror x invert false) (h : Host) :
    Received h (if r.direction = .output then mirrorFaults s x (fun m => m == x) h else []) s
      (s.writeAndPresent x r) := by
  have faults : mirrorFaults (s.writeLine x r) x (fun _ => false) h = mirrorFaults s x (fun m => m == x) h := by
    unfold mirrorFaults
    refine congrArg _ (List.filter_congr fun m _ => ?_)
    rw [followsSource_writeLine other, line_writeLine_eq]
    by_cases same : m = x <;> simp [same]
  have presented := received_present x (s.writeLine x r) h
  rw [direction_writeLine, faults] at presented
  have quiet : Received h [] s (s.writeLine x r) := .of_same (queues_writeLine s x r)
  exact quiet.trans presented (present_linesOnly x _).timestamp

end

/-- R63, R66: a record whose settle restarts and whose mismatch flag is clear follows no change of driven value. -/
theorem after_of_settled {e : External} {old new : LineRec} (settle : new.settle = settleMs) (mismatch : new.mismatch = false)
    (raw : new.raw = old.raw) (keeper : new.keeper = old.keeper) : LineRec.after e old new = new.evaluated e := by
  unfold LineRec.after LineRec.evaluated
  rw [settle, mismatch, raw, keeper, ite_self, ite_self]

/-- R66, R76, R89: the raw level of a line that is configured follows its new settings. -/
theorem evaluated_configured (x : LineSettings) (f : LineFunction) (level : Level) (r : LineRec) (e : External) :
    (r.configured x f level).evaluated e =
      LineRec.after e { r with settle := 4, mismatch := false } (r.configured x f level) :=
  (after_of_settled (old := { r with settle := 4, mismatch := false }) (new := r.configured x f level)
    rfl rfl rfl rfl).symm

section

variable {s : State} {p : Host} {tag : Byte} {x : Line} {d : Direction} {v : Drive} {u : Pull}

/-- R71, R75: a CONFIGURE of a line that the caller holds and that is not in the middle of a pulse passes the checks. -/
theorem configureCheck_of (id : s.arg p 0 ≠ 0) (line : s.arg p 1 = x.val) (direction : directionOf (s.arg p 2) = some d)
    (drive : driveOf (s.arg p 3) = some v) (pull : pullOf (s.arg p 4) = some u) (code : s.arg p 5 < 2)
    (own : (s.line x).holder = some ⟨s.arg p 0, p⟩) (idle : (s.line x).pulsing = false) :
    s.opened.configureCheck p (s.port p).params = .ok ⟨x, d, v, u⟩ := by
  have held : s.holderCheck p (s.arg p 0) [x] = none := holderCheck_held id (by simp) (by simpa using own)
  exact configureCheck_passed (s := s) (lineSettings_of line direction drive pull) code held idle

end

/-- R66, R91, R103: what a CONFIGURE leaves that raises records, writes record `r` of line `x` and presents the line. -/
theorem exec_configured {i : Instr} {s told : State} {p : Host} {tag : Byte} {x : Line} {r : LineRec}
    {events : Host → List Event} {applies : List Byte → Bool} {body : List Byte → State → State × Reply}
    (meaning : exec i s = s.lineMatrixTakes p .configure applies body) (waiting : Waiting s p .configure tag)
    (params : applies (s.port p).params = true)
    (hb : body (s.port p).params s.opened = (told.writeAndPresent x r, Reply.ok)) (records : RecordsOnly s.opened told)
    (received : ∀ h, Received h (events h) s.opened told) (raw : r.raw = (s.line x).raw)
    (other : ∀ invert, r.function ≠ .mirror x invert false) :
    ∃ t, exec i s = .next t
      ∧ t = { s with lines := t.lines, arrivals := t.arrivals, queues := t.queues, ports := t.ports }
      ∧ (∀ j : Line, t.line j =
          if j = x then r.evaluated s.external[x]
          else if r.direction = .output ∧ s.followsSource x j = true then
            LineRec.after s.external[j] (s.line j) (s.line j).withFault
          else s.line j)
      ∧ HandedOn (x :: allLines.filter fun i => i != x) s t
      ∧ (∀ h : Host, Received h
          (events h ++ if r.direction = .output then mirrorFaults s x (fun m => m == x) h else []) s t)
      ∧ Answered p tag .configure .ok [] s t := by
  obtain ⟨qs, rfl⟩ : ∃ qs, told = { s.opened with queues := qs } := ⟨_, records⟩
  have hands : HandsOn (rawChanges (x :: allLines.filter fun i => i != x) s.opened
      (State.writeAndPresent x r { s.opened with queues := qs })) s.opened
      (State.writeAndPresent x r { s.opened with queues := qs }) :=
    handsOn_writeAndPresent (s := { s.opened with queues := qs }) raw other
  have frame := records.linesOnly.trans (writeAndPresent_linesOnly x r _)
  obtain ⟨t, ht, kept, handed, answered⟩ := exec_lineMatrix meaning waiting params hb frame hands
  have queues : t.queues = _ := congrArg State.queues kept
  have time : t.timestamp = s.timestamp := by rw [kept]
  have faults := received_writeAndPresent (s := { s.opened with queues := qs }) other
  refine ⟨t, ht, by rw [kept], fun j => ?_, handed, fun h => ?_, answered⟩
  · exact (line_congr (congrArg State.lines kept) j).trans (line_writeAndPresent other j)
  · have both := (received h).trans (faults h) (writeAndPresent_linesOnly x r _).timestamp
    exact both.congr rfl queues (time.trans frame.timestamp.symm)

/-- Settles O41: the line is written with its new settings and presented to its mirrors. -/
theorem configureWritesThePlainSettings : Obligations.ConfigureWritesThePlainSettings := by
  intro s p tag x d v u waiting id line direction drive pull code own idle
  have check := configureCheck_of id line direction drive pull (by omega) own idle
  have body : State.configureBody p (s.port p).params s.opened =
      (s.opened.writeAndPresent x ((s.line x).configured ⟨x, d, v, u⟩ .plain (s.line x).level), Reply.ok) := by
    simp only [State.configureBody, check]
    rfl
  obtain ⟨t, ht, frame, lines, handed, received, answered⟩ :=
    exec_configured (i := .configure p) (applies := fun ps => param ps 5 != mirrorCode) (events := fun _ => []) rfl
      waiting (asksNoMirror (by omega)) body (.refl _) (fun _ => .of_same rfl) rfl fun _ => LineFunction.noConfusion
  refine ⟨t, ht, frame, fun i => (lines i).trans ?_, handed, received, answered⟩
  rw [evaluated_configured]
  by_cases same : i = x
  · subst same
    rfl
  · rw [if_neg same, if_neg same]
    rfl

/-! ### CONFIGURE with function MIRROR -/

section

variable {x : LineSettings} {ps : List Byte}

/-- R75, check 4: what the mirror parameters must name. -/
theorem mirrorParams_of {source : Line} {invert : Bool} (direction : x.direction = .output)
    (line : (param ps 6).toNat = source.val) (other : source ≠ x.line) (bit : (param ps 7).toNat = if invert then 1 else 0) :
    mirrorParams x ps = some (source, invert) := by
  simp only [mirrorParams, direction, line, lineOf_val, bit, bitOf_bit, other, if_false]

theorem mirrorParams_none (wrong : x.direction = .input ∨ 23 < (param ps 6).toNat ∨ (param ps 6).toNat = x.line.val
    ∨ 1 < (param ps 7).toNat) : mirrorParams x ps = none := by
  unfold mirrorParams
  split
  · rename_i source invert direction line bit
    rcases wrong with wrong | wrong | wrong | wrong
    · rw [wrong] at direction
      cases direction
    · simp [lineOf_of_large wrong] at line
    · rw [wrong, lineOf_val] at line
      cases line
      exact if_pos rfl
    · simp [bitOf_of_large wrong] at bit
  · rfl

end

/-- R89: the record of a mirror as CONFIGURE makes it: faulted where its source is OUT, and else at the source's filtered
level, inverted or not. -/
def State.mirrorRecord (x : LineSettings) (source : Line) (invert : Bool) (s : State) : LineRec :=
  (s.line x.line).configured x (.mirror source invert (decide ((s.line source).direction = .output)))
    (if (s.line source).direction = .output then (s.line x.line).level else xor (s.input source).filtered invert)

/-- R89: the caller is told where the source is OUT. -/
def State.raiseOutSource (caller : Host) (m source : Line) (s : State) : State :=
  if (s.line source).direction = .output then s.raise caller (.mirrorFault m source) else s

theorem raiseOutSource_recordsOnly (caller : Host) (m source : Line) (s : State) :
    RecordsOnly s (s.raiseOutSource caller m source) := by
  unfold State.raiseOutSource
  split <;> rfl

theorem received_raiseOutSource (caller : Host) (m source : Line) (s : State) (h : Host) :
    Received h (if h = caller ∧ (s.line source).direction = .output then [.mirrorFault m source] else []) s
      (s.raiseOutSource caller m source) := by
  unfold State.raiseOutSource
  by_cases out : (s.line source).direction = .output
  · simpa only [out, and_true, if_true] using received_raise s caller (.mirrorFault m source) h
  · simpa only [out, and_false, if_false] using Received.of_same rfl

theorem configureMirrorLine_eq (caller : Host) (x : LineSettings) (source : Line) (invert : Bool) (s : State) :
    s.configureMirrorLine caller x source invert =
      (s.raiseOutSource caller x.line source).writeAndPresent x.line (s.mirrorRecord x source invert) := by
  unfold State.configureMirrorLine State.raiseOutSource State.mirrorRecord
  cases (s.line source).direction <;> rfl

/-- Settles O42: the mirror is written, faulted or following its source, and presented to its own mirrors. -/
theorem configureMirrorFollowsOrFaults : Obligations.ConfigureMirrorFollowsOrFaults := by
  intro s p tag x v u waiting id line small drive pull code own idle
  refine ⟨fun wrong => ?_, fun source invert out sourceLine ne bit => ?_⟩
  · obtain ⟨d, direction⟩ := directionOf_of_small small
    have check := configureCheck_of id line direction drive pull (by omega) own idle
    have input : s.arg p 2 = 0 → d = .input := fun zero => by
      rw [zero] at direction
      exact (Option.some.inj direction).symm
    have params : mirrorParams ⟨x, d, v, u⟩ (s.port p).params = none := mirrorParams_none (wrong.imp_left input)
    refine exec_lineMatrix_kept (r := Reply.refuse .badParam) (body := State.configureMirrorBody p) rfl waiting
      (asksMirror code) ?_
    simp only [State.configureMirrorBody, check, params]
  · have direction : directionOf (s.arg p 2) = some .output := by rw [out]; rfl
    have check := configureCheck_of id line direction drive pull (by omega) own idle
    have params : mirrorParams ⟨x, .output, v, u⟩ (s.port p).params = some (source, invert) :=
      mirrorParams_of rfl sourceLine ne bit
    have body : State.configureMirrorBody p (s.port p).params s.opened =
        ((s.opened.raiseOutSource p x source).writeAndPresent x (s.opened.mirrorRecord ⟨x, .output, v, u⟩ source invert),
          Reply.ok) := by
      simp only [State.configureMirrorBody, check, params, configureMirrorLine_eq]
    obtain ⟨t, ht, frame, lines, handed, received, answered⟩ :=
      exec_configured (i := .configureMirror p) (applies := fun ps => param ps 5 == mirrorCode) rfl waiting
        (asksMirror code) body (raiseOutSource_recordsOnly p x source s.opened)
        (received_raiseOutSource p x source s.opened) rfl fun i same => ne (LineFunction.mirror.inj same).1
    refine ⟨t, ht, frame, fun i => (lines i).trans ?_, handed, received, answered⟩
    rw [State.mirrorRecord, evaluated_configured]
    by_cases same : i = x
    · subst same
      rw [if_pos rfl, if_pos rfl]
      rfl
    · rw [if_neg same, if_neg same]
      simp only [LineRec.configured, true_and]

/-! ### Queries -/

/-- R180: the lines of a mask that is made of the lines satisfying `f`. -/
theorem getLsbD_maskOf (f : Line → Bool) (i : Line) : (maskOf f).getLsbD i.val = f i := by
  have folded : ∀ (ls : List Line) (m : LineMask),
      (ls.foldl (fun m i => if f i then m ||| (1#24 <<< i.val) else m) m).getLsbD i.val
        = (m.getLsbD i.val || (decide (i ∈ ls) && f i)) := by
    intro ls
    induction ls with
    | nil => simp
    | cons j ls ih =>
      intro m
      have bit : (1#24 <<< j.val).getLsbD i.val = decide (i = j) := by
        refine (BitVec.getLsbD_twoPow j.val i.val).trans ?_
        simp [j.isLt, Fin.ext_iff, eq_comm]
      have step : (if f j then m ||| (1#24 <<< j.val) else m).getLsbD i.val
          = (m.getLsbD i.val || (decide (i = j) && f i)) := by
        by_cases same : i = j
        · subst same
          cases f i
          · simp
          · rw [if_pos rfl, BitVec.getLsbD_or, bit, Bool.and_true]
        · cases f j
          · simp [same]
          · rw [if_pos rfl, BitVec.getLsbD_or, bit]
            simp [same]
      rw [List.foldl_cons, ih, step, Bool.or_assoc, ← Bool.and_or_distrib_right]
      simp
  have all := folded allLines 0
  simpa [maskOf, mem_allLines] using all

/-- R180: up to three flags as the low bits of a byte. -/
theorem flagByte_eq (b0 b1 b2 : Bool) :
    flagByte b0 b1 b2 = (if b0 then 1 else 0) + (if b1 then 2 else 0) + if b2 then 4 else 0 := by
  revert b0 b1 b2
  decide

theorem flagByte_two (b0 b1 : Bool) : flagByte b0 b1 false = (if b0 then 1 else 0) + if b1 then 2 else 0 := by
  revert b0 b1
  decide

/-- Settles O45: each query answers from the tables and its body changes nothing. -/
theorem lineQueriesReportAndChangeNothing : Obligations.LineQueriesReportAndChangeNothing := by
  intro s p tag
  refine ⟨fun waiting => ?_, fun waiting => ⟨fun x line => ?_, fun large => ?_⟩⟩
  · obtain ⟨t, ht, kept, answered⟩ := exec_query (i := .readLines p) (applies := fun _ => true)
      (body := State.readLinesBody) rfl waiting rfl rfl
    exact ⟨t, _, _, _, ht, kept, fun i => ⟨getLsbD_maskOf _ i, getLsbD_maskOf _ i, getLsbD_maskOf _ i⟩, answered⟩
  · have body : State.queryLineBody (s.port p).params s =
        (s, ⟨.ok, lineBytes x (s.line x) (s.input x).filtered (s.allowedOn x)⟩) := by
      have named : lineOf (param (s.port p).params 0).toNat = some x := (congrArg lineOf line).trans (lineOf_val x)
      simp only [State.queryLineBody, named]
    obtain ⟨t, ht, kept, answered⟩ := exec_query (i := .queryLine p) (applies := fun _ => true) rfl waiting rfl body
    refine ⟨t, ht, kept, ?_⟩
    generalize s.line x = r at answered ⊢
    obtain ⟨direction, drive, pull, level, function, holder, settle, mismatch, raw, keeper⟩ := r
    unfold lineBytes at answered
    rw [flagByte_two, flagByte_eq] at answered
    rcases function with _ | ⟨source, _ | _, _ | _⟩ | _ <;> cases holder <;> exact answered
  · have body : State.queryLineBody (s.port p).params s = (s, Reply.refuse .badParam) := by
      have unnamed : lineOf (param (s.port p).params 0).toNat = none := lineOf_of_large large
      simp only [State.queryLineBody, unnamed]
    exact exec_query (i := .queryLine p) (applies := fun _ => true) rfl waiting rfl body

end Sys2Proof.Machine
end

section
/-! PROOF. The settle expiry (R99, R100): the tick that brings a settle to 0, with the drive test of its line the first. -/

namespace Sys2Proof.Machine

/-- R100: what a drive test finds contested. -/
theorem contested_eq_some {r : LineRec} {v d : Level} : r.contested v = some d ↔
    r.holder.isSome = true ∧ r.settle = 0 ∧ r.mismatch = false ∧ r.driven = some d ∧ v ≠ d := by
  unfold LineRec.contested
  split
  · rename_i tested
    simp only [Bool.and_eq_true, beq_iff_eq, Bool.not_eq_true'] at tested
    cases driven : r.driven with
    | none => simp
    | some e =>
      dsimp only
      split
      · rename_i same
        simp only [reduceCtorEq, false_iff]
        rintro ⟨-, -, -, e', ne⟩
        exact ne (same.trans (Option.some.inj e'))
      · rename_i differs
        simp only [Option.some.injEq]
        exact ⟨fun e' => e' ▸ ⟨tested.1.1, tested.1.2, tested.2, rfl, differs⟩, fun h => h.2.2.2.1⟩
  · rename_i untested
    simp only [reduceCtorEq, false_iff]
    rintro ⟨held, settled, clear, -, -⟩
    exact untested (by simp [held, settled, clear])

/-- R100: nothing is contested of a line that is free or flagged, or that drives nothing or what its filtered level shows. -/
theorem contested_eq_none {r : LineRec} {v : Level}
    (agrees : r.holder = none ∨ r.mismatch = true ∨ r.driven = none ∨ r.driven = some v) : r.contested v = none := by
  refine Option.eq_none_iff_forall_ne_some.mpr fun d contested => ?_
  obtain ⟨held, -, clear, driven, ne⟩ := contested_eq_some.mp contested
  rcases agrees with free | flagged | none | same
  · rw [free] at held
    cases held
  · rw [flagged] at clear
    cases clear
  · rw [none] at driven
    cases driven
  · exact ne (Option.some.inj (same.symm.trans driven))

section

variable {s : State}

/-- R100: the record of a drive test names the line tested. -/
theorem line_of_mismatchFor {h : Host} {i j : Line} {d : Level} (told : s.mismatchFor h j = some (.mismatch i d)) :
    j = i := by
  unfold State.mismatchFor at told
  split at told
  · obtain ⟨e, -, same⟩ := Option.map_eq_some_iff.mp told
    exact (Event.mismatch.inj same).1
  · cases told

/-- R99, R100: the record of line `i` after a tick that tests it. -/
theorem line_tick (time : s.overdue .lineMatrix = false) (order : List Line) (i : Line) :
    (s.tick order).line i = (s.line i).tick.tested (s.input i).filtered := by
  rw [tick_eq time, line_testLines, if_pos (List.mem_append_right _ (mem_allLines i)), line_countTick]
  rfl

/-- R100: of drive tests that begin with line `i`, what its test finds is told first, and its later tests tell nothing. -/
theorem received_testLines_first (s : State) (i : Line) (h : Host) : ∃ later : List Event,
    Received h ((s.mismatchFor h i).toList ++ later) s ((i :: allLines).foldl State.testLine s)
      ∧ ∀ d, Event.mismatch i d ∉ later := by
  obtain ⟨later, queue, perm⟩ := eventQueue_testLines allLines (s.testLine i) h
  have first := eventQueue_testLine s i h
  have stamp : (s.testLine i).timestamp = s.timestamp := by rw [testLine_frame]
  have stamps : (allLines.foldl State.testLine (s.testLine i)).timestamp = s.timestamp := by
    rw [testLines_frame]
    exact stamp
  refine ⟨later, ?_, fun d told => ?_⟩
  · rw [List.foldl_cons, Received, stamps, List.foldl_append, queue, first, stamp]
  · obtain ⟨j, -, tells⟩ := List.mem_filterMap.mp (perm.mem_iff.mp told)
    have same := line_of_mismatchFor tells
    rw [mismatchFor_testLine, if_pos same] at tells
    cases tells

theorem queues_countTick (s : State) : (s.countTick.tickWaits .lineMatrix).queues = s.queues := rfl

/-- R99, R100: the same of a tick whose tests begin with line `i`. -/
theorem received_tick_first (time : s.overdue .lineMatrix = false) (i : Line) (h : Host) : ∃ later : List Event,
    Received h (((s.countTick.tickWaits .lineMatrix).mismatchFor h i).toList ++ later) s (s.tick [i])
      ∧ ∀ d, Event.mismatch i d ∉ later := by
  obtain ⟨later, received, quiet⟩ := received_testLines_first (s.countTick.tickWaits .lineMatrix) i h
  refine ⟨later, ?_, quiet⟩
  rw [tick_eq time, List.singleton_append]
  exact received.congr (queues_countTick s).symm rfl rfl

end

/-- Settles O18: the expiry is the tick, and the test of its line the first. -/
theorem settleExpiryTestsTheLine : Obligations.SettleExpiryTestsTheLine := by
  intro s i running
  have meaning : exec (.settleExpiry i) s = .next (if (s.line i).settle = 1 then s.tick [i] else s) :=
    takes_running running
  refine ⟨fun notNow => ?_, fun settle time => ?_⟩
  · rw [meaning]
    split
    · rename_i settle
      have overdue := notNow.resolve_left (not_not_intro settle)
      rw [State.tick, if_pos overdue]
    · rfl
  rw [if_pos settle] at meaning
  have line := line_tick time [i] i
  have expired : (s.line i).tick.settle = 0 := by simp [LineRec.tick, settle]
  have mismatch : ((s.tick [i]).line i).mismatch =
      ((s.line i).mismatch || ((s.line i).tick.contested (s.input i).filtered).isSome) := by rw [line]; rfl
  have tells : ∀ h, (s.countTick.tickWaits .lineMatrix).mismatchFor h i = if (s.line i).heldBy h then
      ((s.line i).tick.contested (s.input i).filtered).map fun d => .mismatch i d else none := fun h => by
    rw [State.mismatchFor, line_countTick]
    rfl
  refine ⟨meaning.trans (takes_running running).symm, s.tick [i], meaning, ?_, fun b d held clear driven differs => ?_,
    fun agrees => ?_⟩
  · rw [line]
    exact expired
  · have contested : (s.line i).tick.contested (s.input i).filtered = some d :=
      contested_eq_some.mpr ⟨by rw [LineRec.tick, held]; rfl, expired, clear, by rw [driven_tick, driven], differs⟩
    obtain ⟨later, received, -⟩ := received_tick_first time i b.host
    rw [tells, contested, if_pos (by simp [LineRec.heldBy, held])] at received
    exact ⟨by rw [mismatch, contested, Option.isSome_some, Bool.or_true], later, received⟩
  · have agrees : (s.line i).tick.contested (s.input i).filtered = none :=
      contested_eq_none (by rw [driven_tick]; exact agrees)
    refine ⟨by rw [mismatch, agrees, Option.isSome_none, Bool.or_false], fun h => ?_⟩
    obtain ⟨later, received, quiet⟩ := received_tick_first time i h
    rw [tells, agrees, Option.map_none, ite_self] at received
    exact ⟨later, received, quiet⟩

end Sys2Proof.Machine
end

section
/-! PROOF. The laws of the port engines after every event at a port (R158 to R166, R171, R172, R176, R177). -/

namespace Sys2Proof.Machine

/-! ### The laws of one port, in two halves -/

/-- R70, R123, R164 to R167: the laws of the slot with what waits in it. -/
def PortState.SlotOk (q : PortState) : Prop := q.GuardOk ∧ q.PendingOk ∧ q.TickedOk

/-- The laws of one port. -/
def PortState.Ok (a : BitVec 7) (q : PortState) : Prop := q.SlotOk ∧ q.TxnOk a

theorem portLaw_iff {s : State} : PortLaw s ↔ ∀ p, (s.port p).Ok s.busAddress := by
  simp only [PortLaw, PortState.Ok, PortState.SlotOk, and_assoc]

/-- R165: a command waits in the slot. -/
def PortState.Waits (q : PortState) : Prop := ∃ tag cmd, q.slot = .pending tag cmd

theorem waits_of_waitsFor {q : PortState} {o : Owner} (h : q.waitsFor o = true) : q.Waits := by
  obtain ⟨tag, cmd, slot, -⟩ := (waitsFor_iff o q).mp h
  exact ⟨tag, cmd, slot⟩

section

variable {a : BitVec 7} {q q' : PortState}

/-- R165: a port in RX has no command that waits. -/
theorem PortState.SlotOk.not_waits (h : q.SlotOk) (rx : q.txn = .rx) : ¬ q.Waits := by
  rintro ⟨tag, cmd, slot⟩
  exact (h.2.1 tag cmd slot).1 rx

/-- R70, R123: with no command that waits no tick is noted. -/
theorem PortState.SlotOk.not_ticked (h : q.SlotOk) (idle : ¬ q.Waits) : q.ticked = false := by
  rw [← Bool.not_eq_true]
  intro ticked
  obtain waits | waits := h.2.2 ticked <;> exact idle (waits_of_waitsFor waits)

/-- R164, R165: what reaches neither the slot nor, while a command waits, the frame keeps the laws of the slot. -/
theorem PortState.SlotOk.congr (h : q.SlotOk) (slot : q'.slot = q.slot) (noGuard : q'.repeatGuard = q.repeatGuard)
    (ticked : q'.ticked = q.ticked) (kept : q.Waits → q'.txn ≠ .rx ∧ q'.buffer = q.buffer) : q'.SlotOk := by
  obtain ⟨guarded, pending, noted⟩ := h
  refine ⟨?_, fun tag cmd waits => ?_, fun noted' => ?_⟩
  · unfold PortState.GuardOk
    rw [slot, noGuard]
    exact guarded
  · rw [slot] at waits
    obtain ⟨txn, buffer⟩ := kept ⟨tag, cmd, waits⟩
    refine ⟨txn, ?_⟩
    unfold PortState.params
    rw [buffer]
    exact (pending tag cmd waits).2
  · unfold PortState.waitsFor
    rw [slot]
    exact noted (ticked ▸ noted')

/-- R165: the same where the frame and the transaction state stand. -/
theorem PortState.SlotOk.same (h : q.SlotOk) (slot : q'.slot = q.slot) (noGuard : q'.repeatGuard = q.repeatGuard)
    (ticked : q'.ticked = q.ticked) (txn : q'.txn = q.txn) (buffer : q'.buffer = q.buffer) : q'.SlotOk :=
  h.congr slot noGuard ticked fun waits => ⟨fun rx => h.not_waits (txn ▸ rx) waits, buffer⟩

/-- R164: a slot that is answered, with its guard. -/
theorem slotOk_of_ready {st : Status} {tag code : Byte} {data : List Byte} (slot : q.slot = .ready st tag code data)
    (guarded : q.repeatGuard.isSome = true) (ticked : q.ticked = false) : q.SlotOk :=
  ⟨⟨fun _ => ⟨st, tag, code, data, slot⟩, fun _ => guarded⟩, fun _ _ waits => absurd (slot.symm.trans waits) Slot.noConfusion,
    fun noted => absurd (ticked.symm.trans noted) Bool.noConfusion⟩

/-! ### Transactions at rest -/

/-- R158, R176: a port in neither RX nor TX: it has no image and its bus timer stands, and it shows an ACK only where it
stands aside. -/
theorem txnOk_of_rest (rest : q.inTransaction = false) (image : q.image = none) (bound : q.timer.remaining ≤ busTimeoutMs)
    (stopped : q.timer.running = false) (aside : q.ack ≠ .absent → q.txn = .aside)
    (sda : q.sda = if q.ack = .driven ∨ q.ack = .clocked then .low else .released) (buffer : q.buffer.length ≤ 36) :
    q.TxnOk a := by
  simp only [PortState.inTransaction, Bool.or_eq_false_iff, beq_eq_false_iff_ne] at rest
  obtain ⟨notRx, notTx⟩ := rest
  refine ⟨by simp [image, notTx], by simp [image], bound, by simp [stopped], fun live => ?_, ?_, ?_, buffer,
    fun rx => absurd rx notRx⟩
  · exact absurd live (not_or.mpr ⟨notRx, notTx⟩)
  · exact ⟨fun shown => ⟨.inr (.inr (aside shown)), by simp [image]⟩,
      fun driven other => absurd (aside (by simp [driven])) other, fun _ => stopped⟩
  · unfold PortState.SdaOk
    rw [sda, image]
    cases q.ack <;> rfl

/-- R159: a port that stands aside and acknowledges nothing. -/
theorem PortState.TxnOk.silent (h : q.TxnOk a) (aside : q.txn = .aside) {acks : List Bool} :
    ({ q with ack := .absent, sda := .released, acks := acks } : PortState).TxnOk a := by
  obtain ⟨image, -, bound, running, -, -, -, buffer, -⟩ := h
  refine txnOk_of_rest (by simp [PortState.inTransaction, aside]) ?_ bound ?_ (fun shown => absurd rfl shown) rfl buffer
  · rw [← Option.not_isSome_iff_eq_none, image, aside]
    exact Txn.noConfusion
  · rw [← Bool.not_eq_true]
    intro runs
    simpa [aside] using running runs

section

variable {next : Txn}

/-- R161 to R163, R172, R177: what is left when a transaction ends. -/
theorem PortState.TxnOk.idle (h : q.TxnOk a) (rest : next ≠ .rx ∧ next ≠ .tx) : (q.idle next).TxnOk a := by
  obtain ⟨-, -, -, -, -, -, -, buffer, -⟩ := h
  exact txnOk_of_rest (by simp [PortState.inTransaction, PortState.idle, rest.1, rest.2]) rfl (Nat.zero_le _) rfl
    (fun shown => absurd rfl shown) rfl buffer

theorem PortState.Ok.drop (h : q.Ok a) (rest : next ≠ .rx ∧ next ≠ .tx) : (q.drop next).Ok a := by
  obtain ⟨slot, txn⟩ := h
  unfold PortState.drop
  split
  · rename_i rx
    exact ⟨slot.congr rfl rfl rfl fun waits => absurd waits (slot.not_waits rx),
      txnOk_of_rest (by simp [PortState.inTransaction, PortState.idle, rest.1, rest.2]) rfl (Nat.zero_le _) rfl
        (fun shown => absurd rfl shown) rfl (Nat.zero_le _)⟩
  · exact ⟨slot.congr rfl rfl rfl fun _ => ⟨rest.1, rfl⟩, txn.idle rest⟩

end

/-- R177: a bus timeout keeps the laws. -/
theorem PortState.Ok.takeTimeout (h : q.Ok a) : q.takeTimeout.Ok a := by
  unfold PortState.takeTimeout
  split
  · exact h.drop (by decide)
  · exact h

/-- R157, R163, R172: so does a condition. -/
theorem PortState.Ok.condition (h : q.Ok a) (c : Condition) : (q.condition c).Ok a := by
  cases c with
  | start =>
    have dropped : (q.drop .addressing).Ok a := h.drop (by decide)
    exact ⟨dropped.1.same rfl rfl rfl rfl rfl, dropped.2⟩
  | stop => exact h.drop (by decide)

/-! ### Address bytes -/

/-- R159, R171: a read address puts the port into TX with its image whole. -/
theorem txnOk_of_read {bytes : List Byte} (txn : q.txn = .tx) (image : q.image = some ⟨bytes, 0, 0⟩)
    (timer : q.timer = BusTimer.entry) (ack : q.ack = .decided) (sda : q.sda = .released) (buffer : q.buffer.length ≤ 36) :
    q.TxnOk a := by
  refine ⟨by simp [image, txn], by simp [image], by simp [timer, BusTimer.entry], by simp [timer, BusTimer.entry],
    by simp [timer, BusTimer.entry, busTimeoutMs], ?_, ?_, buffer, by simp [txn]⟩
  · exact ⟨fun _ => ⟨.inr (.inl txn), by simp [image]⟩, by simp [ack], fun _ => by simp [timer, BusTimer.entry]⟩
  · unfold PortState.SdaOk
    rw [sda, ack]

/-- R159, R160: a port in RX that has just acknowledged a byte, whose CRC register covers what it received. -/
theorem txnOk_of_received (txn : q.txn = .rx) (image : q.image = none) (timer : q.timer = BusTimer.entry)
    (ack : q.ack = .decided) (sda : q.sda = .released) (crc : q.crc = some (crcOf (addressOf a false :: q.buffer)))
    (partial_frame : 3 ≤ q.buffer.length →
      (q.buffer.getD 2 0).toNat ≤ 32 ∧ q.buffer.length < 4 + (q.buffer.getD 2 0).toNat) : q.TxnOk a := by
  refine ⟨by simp [image, txn], by simp [image], by simp [timer, BusTimer.entry], by simp [timer, BusTimer.entry],
    by simp [timer, BusTimer.entry, busTimeoutMs], ?_, ?_, ?_, fun _ => ⟨crc, partial_frame⟩⟩
  · exact ⟨fun _ => ⟨.inl txn, by simp [image]⟩, by simp [ack], fun _ => by simp [timer, BusTimer.entry]⟩
  · unfold PortState.SdaOk
    rw [sda, ack]
  · rcases Nat.lt_or_ge q.buffer.length 3 with short | long
    · omega
    · obtain ⟨count, whole⟩ := partial_frame long
      omega

/-- R159: a port that is addressed. -/
theorem PortState.Ok.addressed (h : q.Ok a) (read : Bool) (image : q.image = none) :
    (q.addressed read (addressOf a read)).Ok a := by
  obtain ⟨slot, txn⟩ := h
  have buffer : q.buffer.length ≤ 36 := by
    obtain ⟨-, -, -, -, -, -, -, buffer, -⟩ := txn
    exact buffer
  cases read with
  | true =>
    exact ⟨slot.congr rfl rfl rfl fun _ => ⟨by simp [PortState.addressed], rfl⟩, txnOk_of_read rfl rfl rfl rfl rfl buffer⟩
  | false =>
    unfold PortState.addressed
    rw [if_neg Bool.false_ne_true]
    split
    · have idled := txn.idle (next := .aside) (by decide)
      exact ⟨slot.congr rfl rfl rfl fun _ => ⟨by simp [PortState.idle], rfl⟩, idled⟩
    all_goals
      rename_i answered
      have idle : ¬ q.Waits := fun ⟨tag, cmd, waits⟩ => Slot.noConfusion (answered.symm.trans waits)
      exact ⟨slot.congr rfl rfl rfl fun waits => absurd waits idle,
        txnOk_of_received rfl image rfl rfl rfl rfl (by simp)⟩

/-- R159: a completed address byte keeps the laws. -/
theorem PortState.Ok.addressByte (h : q.Ok a) (b : Byte) : (q.addressByte a b).Ok a := by
  unfold PortState.addressByte
  split
  · rename_i addressing
    have image : q.image = none := by
      obtain ⟨shown, -⟩ := h.2
      simpa [addressing] using shown
    split
    · rename_i read
      rw [read]
      exact h.addressed true image
    · split
      · rename_i write
        rw [write]
        exact h.addressed false image
      · exact ⟨h.1.congr rfl rfl rfl fun _ => ⟨by simp [PortState.idle], rfl⟩, h.2.idle (by decide)⟩
  · exact h

/-! ### Edges of SCL -/

theorem inTransaction_iff : q.inTransaction = true ↔ q.txn = .rx ∨ q.txn = .tx := by
  simp [PortState.inTransaction]

/-- R176: the bus timer after a falling edge. -/
def PortState.fallTimer (q : PortState) : BusTimer := if q.inTransaction then ⟨busTimeoutMs, true⟩ else q.timer

/-- R176: the bus timer after a rising edge. -/
def PortState.riseTimer (q : PortState) : BusTimer :=
  if q.inTransaction then { q.timer with running := false } else q.timer

theorem fall_of_decided (ack : q.ack = .decided) :
    q.fall = { q with timer := q.fallTimer, ack := .driven, sda := .low } := by
  unfold PortState.fall
  rw [ack]
  rfl

theorem fall_of_shown (ack : q.ack ≠ .decided) :
    q.fall = { q with timer := q.fallTimer, ack := .absent, sda := q.fallenSda } := by
  unfold PortState.fall
  cases e : q.ack with
  | decided => exact absurd e ack
  | absent | driven | clocked => rfl

theorem rise_of_driven (ack : q.ack = .driven) : q.rise = { q with timer := q.riseTimer, ack := .clocked } := by
  unfold PortState.rise
  rw [ack]
  rfl

theorem rise_of_absent (ack : q.ack = .absent) : q.rise =
    { q with timer := q.riseTimer, image := if q.txn = .tx then q.image.map Image.clockBit else q.image } := by
  unfold PortState.rise
  rw [ack]
  rfl

/-- R176: in RX and TX the bus timer runs in full after a falling edge, and elsewhere it stands. -/
theorem PortState.TxnOk.fallTimer (h : q.TxnOk a) : q.fallTimer.remaining ≤ busTimeoutMs
    ∧ (q.fallTimer.running = true ↔ q.txn = .rx ∨ q.txn = .tx) := by
  obtain ⟨-, -, bound, running, -⟩ := h
  unfold PortState.fallTimer
  split
  · rename_i active
    exact ⟨Nat.le_refl _, fun _ => inTransaction_iff.mp active, fun _ => rfl⟩
  · rename_i rest
    exact ⟨bound, running, fun active => absurd (inTransaction_iff.mpr active) rest⟩

/-- R158, R172: SDA as the part shows a bit is SDA as the rule has it. -/
theorem sentBit_eq (b : Byte) (k : Nat) : sentBit b k = bitOnSda b k := by
  unfold sentBit bitOnSda
  simp

/-- R158, R176: a falling edge keeps the laws of a transaction. -/
theorem PortState.TxnOk.fall (h : q.TxnOk a) : q.fall.TxnOk a := by
  obtain ⟨bound', running'⟩ := h.fallTimer
  obtain ⟨image, position, -, -, -, ⟨shown, -, -⟩, -, buffer, rx⟩ := h
  by_cases decided : q.ack = .decided
  · rw [fall_of_decided decided]
    obtain ⟨place, start⟩ := shown (by simp [decided])
    refine ⟨image, position, bound', running'.mp, fun live _ => running'.mpr live, ⟨fun _ => ⟨place, start⟩, ?_, ?_⟩, rfl,
      buffer, rx⟩
    · intro _ other
      exact running'.mpr (by tauto)
    · simp
  · rw [fall_of_shown decided]
    refine ⟨image, position, bound', running'.mp, fun live _ => running'.mpr live, ?_, ?_, buffer, rx⟩
    · exact ⟨fun shown => absurd rfl shown, by simp, by simp⟩
    · unfold PortState.SdaOk PortState.fallenSda
      dsimp only
      cases present : q.image with
      | none => split <;> simp_all
      | some im =>
        have tx : q.txn = .tx := image.mp (by rw [present]; rfl)
        have runs := running'.mpr (.inr tx)
        rw [tx]
        simp only [runs, if_true]
        exact sentBit_eq _ _

section

variable (low : q.sclLow = true) (time : q.timedOut = false)

include low time

/-- R176: in RX and TX the bus timer has time left at a rising edge, and it stands after it. -/
theorem PortState.TxnOk.riseTimer (h : q.TxnOk a) : q.riseTimer.remaining ≤ busTimeoutMs
    ∧ q.riseTimer.running = false ∧ (q.txn = .rx ∨ q.txn = .tx → q.timer.running = true ∧ q.riseTimer.remaining ≠ 0) := by
  obtain ⟨-, -, bound, running, -, ⟨-, driven, -⟩, -⟩ := h
  unfold PortState.riseTimer
  split
  · rename_i active
    have runs : q.timer.running = true := by
      unfold PortState.sclLow at low
      split at low
      · cases low
      · cases low
      · rename_i ack
        refine driven ack fun aside => ?_
        simp [inTransaction_iff, aside] at active
      · exact (Bool.and_eq_true_iff.mp low).2
    refine ⟨bound, rfl, fun _ => ⟨runs, fun zero => ?_⟩⟩
    simp only [PortState.timedOut, active, runs, Bool.true_and, beq_eq_false_iff_ne] at time
    exact time zero
  · rename_i rest
    have idle : ¬ (q.txn = .rx ∨ q.txn = .tx) := fun active => rest (inTransaction_iff.mpr active)
    exact ⟨bound, by simpa using mt running idle, fun active => absurd active idle⟩

/-- R158, R176: a rising edge that no answer of the host is awaited at keeps the laws of a transaction. -/
theorem PortState.TxnOk.rise (h : q.TxnOk a) (free : q.awaitsAnswer = false) : q.rise.TxnOk a := by
  obtain ⟨bound', stopped, left⟩ := h.riseTimer low time
  obtain ⟨image, position, -, -, -, ⟨shown, -, -⟩, sda, buffer, rx⟩ := h
  have live : q.txn = .rx ∨ q.txn = .tx → q.riseTimer.remaining = 0 → q.riseTimer.running = true :=
    fun active zero => absurd zero (left active).2
  cases ack : q.ack with
  | decided | clocked => simp [PortState.sclLow, ack] at low
  | driven =>
    rw [rise_of_driven ack]
    unfold PortState.SdaOk at sda
    rw [ack] at sda
    exact ⟨image, position, bound', by simp [stopped], live, ⟨fun _ => shown (by simp [ack]), by simp, fun _ => stopped⟩,
      sda, buffer, rx⟩
  | absent =>
    have active : q.txn = .rx ∨ q.txn = .tx := by
      simp only [PortState.sclLow, ack, Bool.and_eq_true] at low
      exact inTransaction_iff.mp low.1
    have runs := (left active).1
    rw [rise_of_absent ack]
    unfold PortState.SdaOk at sda
    rw [ack] at sda
    by_cases tx : q.txn = .tx
    · obtain ⟨im, present⟩ := Option.isSome_iff_exists.mp (image.mpr tx)
      have more : im.bit < 8 := by
        simpa [PortState.awaitsAnswer, tx, ack, present] using free
      obtain ⟨within, -⟩ := position im present
      rw [present] at sda
      rw [if_pos tx, present]
      refine ⟨by simp [tx], ?_, bound', by simp [stopped], live, ⟨fun shown => absurd ack shown, by simp [ack], by simp [ack]⟩,
        ?_, buffer, rx⟩
      · intro im' same
        cases same
        exact ⟨within, more⟩
      · unfold PortState.SdaOk
        simp only [ack, Option.map_some, stopped, Bool.false_eq_true, if_false]
        simp only [runs, if_true] at sda
        exact sda
    · rw [if_neg tx]
      have noImage : q.image = none := by
        rw [← Option.not_isSome_iff_eq_none, image]
        exact tx
      refine ⟨image, position, bound', by simp [stopped], live, ⟨fun shown => absurd ack shown, by simp [ack], by simp [ack]⟩,
        ?_, buffer, rx⟩
      unfold PortState.SdaOk
      rw [noImage] at sda ⊢
      rw [ack]
      exact sda

end

theorem PortState.SlotOk.fall (h : q.SlotOk) : q.fall.SlotOk := by
  by_cases decided : q.ack = .decided
  · rw [fall_of_decided decided]
    exact h.same rfl rfl rfl rfl rfl
  · rw [fall_of_shown decided]
    exact h.same rfl rfl rfl rfl rfl

theorem PortState.SlotOk.rise (h : q.SlotOk) : q.rise.SlotOk := by
  unfold PortState.rise
  dsimp only
  split <;> exact h.same rfl rfl rfl rfl rfl

theorem PortState.Ok.fall (h : q.Ok a) : q.fall.Ok a := ⟨h.1.fall, h.2.fall⟩

/-- R158, R176: an edge of SCL keeps the laws, where no bus timeout has come. -/
theorem PortState.Ok.edge (h : q.Ok a) (time : q.timedOut = false) (scl : Scl) : (q.edge scl).Ok a := by
  unfold PortState.edge
  split
  · rename_i low
    split
    · exact h
    · rename_i free
      have risen : q.rise.Ok a := ⟨h.1.rise, h.2.rise low time (by simpa using free)⟩
      cases scl
      · exact risen.fall
      · exact risen
  · cases scl
    · exact h.fall
    · exact h

theorem PortState.Ok.leave (h : q.Ok a) (scl : Scl) : (q.leave scl).Ok a := by
  cases scl
  · exact h.fall
  · exact h

/-! ### Command frames -/

section

variable (p : Host) (isSupervisor : Bool) (b : Byte)

/-- R166, R181: a code names the command whose code it is. -/
theorem code_of_cmdOf {code : Byte} {cmd : Cmd} (h : cmdOf code = some cmd) : cmd.code = code := by
  simpa using List.find?_some h

/-- R165, R166: a whole frame that is judged. -/
theorem PortState.Ok.accept (h : q.Ok a) (idle : ¬ q.Waits) (aside : q.txn ≠ .rx)
    (whole : q.buffer.length = 4 + (q.buffer.getD 2 0).toNat) : (q.accept p isSupervisor).Ok a := by
  obtain ⟨slot, txn⟩ := h
  have quiet := slot.not_ticked idle
  unfold PortState.accept
  dsimp only
  split
  · exact ⟨slot, txn⟩
  · split
    · exact ⟨slotOk_of_ready rfl rfl quiet, txn⟩
    · rename_i cmd named
      split
      · exact ⟨slotOk_of_ready rfl rfl quiet, txn⟩
      · rename_i short
        have fits : cmd.lengthOk q.params = true := by simpa using short
        split
        · exact ⟨slotOk_of_ready rfl rfl quiet, txn⟩
        · rename_i other
          refine ⟨⟨by simp [PortState.GuardOk], fun tag c pending => ?_, fun noted => (nomatch noted)⟩, txn⟩
          cases pending
          exact ⟨aside, (code_of_cmdOf named).symm, rfl, other, whole, fits⟩

theorem txn_accept (q : PortState) : (q.accept p isSupervisor).txn = q.txn := by
  unfold PortState.accept
  dsimp only
  repeat' split
  all_goals rfl

/-- R161, R162: a frame that is refused. -/
theorem PortState.Ok.reject (h : q.Ok a) : q.reject.Ok a := by
  have dropped : (q.drop .aside).Ok a := h.drop (by decide)
  exact ⟨dropped.1.same rfl rfl rfl rfl rfl, dropped.2⟩

/-- R160: a byte that is stored. -/
theorem PortState.Ok.store (h : q.Ok a) (rx : q.txn = .rx) (room : q.buffer.length < 2
    ∨ q.buffer.length = 2 ∧ b.toNat ≤ 32
    ∨ 2 < q.buffer.length ∧ q.buffer.length < 3 + (q.buffer.getD 2 0).toNat) : (q.store b).Ok a := by
  obtain ⟨slot, image, -, -, -, -, -, -, -, received⟩ := h
  obtain ⟨crc, part⟩ := received rx
  have noImage : q.image = none := by
    rw [← Option.not_isSome_iff_eq_none, image, rx]
    exact Txn.noConfusion
  refine ⟨slot.congr rfl rfl rfl fun waits => absurd waits (slot.not_waits rx),
    txnOk_of_received rx noImage rfl rfl rfl ?_ fun long => ?_⟩
  · simp [PortState.store, crc, crcOf, List.foldl_append]
  · simp only [PortState.store, List.length_append, List.length_singleton] at long ⊢
    rcases room with short | ⟨two, count⟩ | ⟨more, room⟩
    · omega
    · have last : (q.buffer ++ [b]).getD 2 0 = b := by
        rw [List.getD_append_right _ _ _ _ (by omega), two]
        rfl
      rw [last]
      omega
    · rw [List.getD_append _ _ _ _ more]
      obtain ⟨count, -⟩ := part (by omega)
      omega

/-- R162: the CRC byte. -/
theorem PortState.Ok.crcReceived (h : q.Ok a) (rx : q.txn = .rx) (more : 2 < q.buffer.length)
    (full : 3 + (q.buffer.getD 2 0).toNat ≤ q.buffer.length) : (q.crcReceived p isSupervisor b).Ok a := by
  unfold PortState.crcReceived
  split
  · have idle := h.1.not_waits rx
    have whole : (q.buffer ++ [b]).length = 4 + ((q.buffer ++ [b]).getD 2 0).toNat ∧ (q.buffer ++ [b]).length ≤ 36 := by
      obtain ⟨-, -, -, -, -, -, -, -, received⟩ := h.2
      obtain ⟨count, part⟩ := (received rx).2 more
      rw [List.getD_append _ _ _ _ more]
      simp only [List.length_append, List.length_singleton]
      omega
    refine PortState.Ok.accept p isSupervisor ⟨?_, ?_⟩ idle Txn.noConfusion whole.1
    · exact h.1.congr rfl rfl rfl fun waits => absurd waits idle
    · exact txnOk_of_rest rfl rfl (Nat.zero_le _) rfl (fun _ => rfl) rfl whole.2
  · exact h.reject

/-- R159 to R162: a byte of the host keeps the laws, and leaves the port in RX or standing aside. -/
theorem PortState.Ok.rxByte (h : q.Ok a) (place : q.txn = .rx ∨ q.txn = .aside) :
    (q.rxByte p isSupervisor b).Ok a
      ∧ ((q.rxByte p isSupervisor b).txn = .rx ∨ (q.rxByte p isSupervisor b).txn = .aside) := by
  have rejected : q.txn = .rx → q.reject.Ok a ∧ (q.reject.txn = .rx ∨ q.reject.txn = .aside) := fun rx => by
    refine ⟨h.reject, .inr ?_⟩
    simp [PortState.reject, PortState.drop, PortState.idle, rx]
  unfold PortState.rxByte
  split
  · rename_i rx
    split
    · exact ⟨h.store b rx (.inl ‹_›), .inl rx⟩
    · rename_i long
      split
      · rename_i two
        split
        · exact ⟨h.store b rx (.inr (.inl ⟨two, ‹_›⟩)), .inl rx⟩
        · exact rejected rx
      · rename_i other
        split
        · exact ⟨h.store b rx (.inr (.inr ⟨by omega, ‹_›⟩)), .inl rx⟩
        · refine ⟨h.crcReceived p isSupervisor b rx (by omega) (by omega), ?_⟩
          unfold PortState.crcReceived
          split
          · exact .inr (txn_accept _ _ _)
          · exact (rejected rx).2
  · rename_i notRx
    have aside := place.resolve_left notRx
    exact ⟨⟨h.1.same rfl rfl rfl rfl rfl, h.2.silent aside⟩, .inr aside⟩

end

/-- R158 to R162: bytes of the host, or an edge of SCL, keep the laws. -/
theorem PortState.Ok.commandFrame (h : q.Ok a) (time : q.timedOut = false) (p : Host) (isSupervisor : Bool)
    (bytes : List Byte) (scl : Scl) : (q.commandFrame p isSupervisor bytes scl).Ok a := by
  have folded : ∀ (bytes : List Byte) (q : PortState), q.Ok a → (q.txn = .rx ∨ q.txn = .aside) →
      (bytes.foldl (PortState.rxByte p isSupervisor) q).Ok a := by
    intro bytes
    induction bytes with
    | nil => exact fun _ ok _ => ok
    | cons b bytes ih =>
      intro q ok place
      obtain ⟨ok, place⟩ := ok.rxByte p isSupervisor b place
      exact ih _ ok place
  unfold PortState.commandFrame PortState.receive
  split
  · rename_i place
    split
    · exact h.edge time scl
    · exact (folded bytes q h place).leave scl
  · exact h

/-! ### Response reads -/

/-- R172: a byte the port sends keeps the laws, and no bus timeout has come after it. -/
theorem PortState.Ok.txByte (h : q.Ok a) (time : q.timedOut = false) (answer : Bool) :
    (q.txByte answer).Ok a ∧ (q.txByte answer).timedOut = false := by
  unfold PortState.txByte
  split
  · rename_i im tx present
    split
    · obtain ⟨slot, image, position, bound, running, live, -, -, buffer, -⟩ := h
      have timer : (q.answerTimer im).remaining ≤ busTimeoutMs ∧ (q.answerTimer im).remaining ≠ 0
          ∧ (q.answerTimer im).running = false := by
        unfold PortState.answerTimer
        split
        · refine ⟨bound, fun zero => ?_, rfl⟩
          have runs := live (.inr tx) zero
          have zero : q.timer.remaining = 0 := zero
          simp [PortState.timedOut, PortState.inTransaction, tx, runs, zero] at time
        · exact ⟨Nat.le_refl _, by decide, rfl⟩
      obtain ⟨bound', left, stopped⟩ := timer
      refine ⟨⟨slot.same rfl rfl rfl rfl rfl, by simp [tx], ?_, bound', by simp [stopped], fun _ zero => absurd zero left,
        ⟨fun shown => absurd rfl shown, by simp, by simp⟩, ?_, buffer, by simp [tx]⟩, by simp [PortState.timedOut, stopped]⟩
      · intro im' same
        cases same
        exact ⟨Nat.min_le_right _ _, Nat.zero_le _⟩
      · unfold PortState.SdaOk
        simp [stopped, Image.advance]
    · refine ⟨⟨h.1.congr rfl rfl rfl fun _ => ⟨by simp [PortState.idle], rfl⟩, ?_⟩, rfl⟩
      exact h.2.idle (next := .aside) (by decide)
  · exact ⟨h, time⟩

/-- R159, R172: a response read keeps the laws. -/
theorem PortState.Ok.responseRead (h : q.Ok a) (time : q.timedOut = false) (answers : List Bool) (scl : Scl) :
    (q.responseRead answers scl).Ok a := by
  have folded : ∀ (answers : List Bool) (q : PortState), q.Ok a → q.timedOut = false →
      (answers.foldl PortState.txByte q).Ok a := by
    intro answers
    induction answers with
    | nil => exact fun _ ok _ => ok
    | cons answer answers ih =>
      intro q ok time
      obtain ⟨ok, time⟩ := ok.txByte time answer
      exact ih _ ok time
  unfold PortState.responseRead
  split
  · unfold PortState.transmit
    split
    · exact h.edge time scl
    · exact (folded answers q h time).leave scl
  · rename_i aside
    unfold PortState.passBytes
    split
    · exact h.edge time scl
    · exact ⟨h.1.same rfl rfl rfl rfl rfl, h.2.silent aside⟩
  all_goals exact h

/-! ### Ticks and answers -/

/-- R176: the laws of a transaction see of the bus timer whether it runs, that it holds at most 25 ms and that it stands at 0
nowhere in RX and TX. -/
theorem PortState.TxnOk.timed (h : q.TxnOk a) {t : BusTimer} (bound : t.remaining ≤ busTimeoutMs)
    (runs : t.running = q.timer.running) (live : q.txn = .rx ∨ q.txn = .tx → t.remaining = 0 → t.running = true) :
    ({ q with timer := t } : PortState).TxnOk a := by
  obtain ⟨image, position, -, running, -, ⟨shown, driven, stopped⟩, sda, buffer, rx⟩ := h
  unfold PortState.SdaOk at sda
  rw [← runs] at running driven stopped sda
  exact ⟨image, position, bound, running, live, ⟨shown, driven, stopped⟩, sda, buffer, rx⟩

/-- R176: a millisecond tick at a port keeps the laws. -/
theorem PortState.Ok.tick (h : q.Ok a) : q.tick.Ok a := by
  obtain ⟨slot, txn⟩ := h.takeTimeout
  obtain ⟨-, -, bound, -, live, -⟩ := txn
  have bound' : q.takeTimeout.timer.tick.remaining ≤ busTimeoutMs := by
    rw [BusTimer.tick_eq]
    exact (Nat.sub_le _ _).trans bound
  have runs : q.takeTimeout.timer.tick.running = q.takeTimeout.timer.running := by rw [BusTimer.tick_eq]
  refine ⟨slot.same rfl rfl rfl rfl rfl, h.takeTimeout.2.timed bound' runs fun active zero => runs.trans ?_⟩
  by_contra stands
  rw [BusTimer.tick_eq, if_neg stands] at zero
  exact stands (live active zero)

/-- R70, R123: so does a tick that is noted of a command that waits. -/
theorem PortState.Ok.noted (h : q.Ok a) {o : Owner} (owner : o = .lineMatrix ∨ o = .inputMonitor) :
    ({ q with ticked := q.ticked || q.waitsFor o } : PortState).Ok a := by
  obtain ⟨⟨guarded, pending, ticked⟩, txn⟩ := h
  refine ⟨⟨guarded, pending, fun noted => ?_⟩, txn⟩
  rcases Bool.or_eq_true_iff.mp noted with noted | waits
  · exact ticked noted
  · rcases owner with rfl | rfl
    · exact .inl waits
    · exact .inr waits

end

/-! ### The ports of the part -/

/-- The laws of every port engine, at bus address `a`. -/
def State.PortsOk (a : BitVec 7) (s : State) : Prop := ∀ p, (s.port p).Ok a

section

variable {a : BitVec 7} {s t : State}

theorem State.PortsOk.of_ports (h : s.PortsOk a) (ports : t.ports = s.ports) : t.PortsOk a := by
  intro p
  have same : t.port p = s.port p := by rw [State.port, State.port, ports]
  rw [same]
  exact h p

/-- R155, R164, R179: idle ports with empty slots keep the laws, whatever the bus address. -/
theorem portsOk_reset (a : BitVec 7) : State.reset.PortsOk a := by
  intro p
  obtain ⟨slot, -⟩ := portLaw_iff.mp portLaw_reset p
  rw [port_reset] at slot ⊢
  exact ⟨slot, txnOk_of_rest rfl rfl (Nat.zero_le _) rfl (fun shown => absurd rfl shown) rfl (Nat.zero_le _)⟩

/-- What an event keeps, its row keeps, in device reset too. -/
theorem takes_keep {P : State → Prop} {f : State → State} (hf : ∀ s, P s → P (f s)) (h : s.takes f = .next t) (law : P s) :
    P t := by
  cases inReset : s.inReset with
  | true =>
    rw [takes_inReset inReset] at h
    cases h
    exact law
  | false =>
    rw [takes_running inReset] at h
    cases h
    exact hf s law

/-- R155: an event that keeps the laws of a port with no bus timeout keeps those of every port. -/
theorem portEvent_portsOk {p : Host} {f : PortState → PortState}
    (event : ∀ q : PortState, q.Ok a → q.timedOut = false → (f q).Ok a) (h : s.portEvent p f = .next t) (law : s.PortsOk a) :
    t.PortsOk a := by
  refine takes_keep (P := State.PortsOk a) (fun u law q => ?_) h law
  rw [State.port_updatePort]
  split
  · exact event _ (law p).takeTimeout (timedOut_takeTimeout _)
  · exact law q

/-- R169: so does the row of a command. -/
theorem row_portsOk {i : Instr} {p : Host} {cmd : Cmd} (own : Instr.ownerCommand i = some (p, cmd))
    (h : exec i s = .next t) (law : s.PortsOk a) : t.PortsOk a := by
  obtain ⟨f, body, meaning, row, good⟩ := exec_row own
  rw [meaning] at h
  refine takes_keep (P := State.PortsOk a) (fun u law => ?_) h law
  by_cases takes : ∃ tag, u.rowTakes p cmd (Instr.takesParams i) tag
  · obtain ⟨tag, takes⟩ := takes
    obtain ⟨u', -, -, ⟨others, answer⟩, -⟩ := row.answered good takes
    intro q
    by_cases same : q = p
    · rw [same, answer]
      exact ⟨slotOk_of_ready rfl rfl rfl, (law p).2⟩
    · rw [others q same]
      exact law q
  · rw [row.idle u (not_exists.mp takes)]
    exact law

/-- R70, R123: so does the note of a tick at every port. -/
theorem State.PortsOk.noted (law : s.PortsOk a) {o : Owner} (owner : o = .lineMatrix ∨ o = .inputMonitor) :
    (s.tickWaits o).PortsOk a := by
  intro p
  rw [port_tickWaits]
  exact (law p).noted owner

/-- R70, R176: so does a millisecond tick. -/
theorem tick_portsOk (order : List Line) (law : s.PortsOk a) : (s.tick order).PortsOk a := by
  cases overdue : s.overdue .lineMatrix with
  | true =>
    rw [State.tick, if_pos overdue]
    exact law
  | false =>
    have counted : s.countTick.PortsOk a := fun p => by
      have tick : s.countTick.port p = (s.port p).tick := mapTable_getElem PortState.tick s.ports p
      rw [tick]
      exact (law p).tick
    rw [tick_eq overdue]
    exact (counted.noted (.inl rfl)).of_ports (LinesOnly.foldl (fun t i => driveTest_linesOnly i _ t) _ _).ports

theorem RecordsOnly.ports (h : RecordsOnly s t) : t.ports = s.ports := h.linesOnly.ports

theorem ports_reports (s : State) (rs : List (List LevelChange)) : State.ports { s with reports := rs } = s.ports := rfl

theorem ports_sampleLine (s : State) (i : Line) : (s.sampleLine i).ports = s.ports := by
  unfold State.sampleLine State.changeFiltered
  dsimp only
  split
  · rw [ports_reports, (raiseEdges_recordsOnly i _ .filtered _).ports]
  · rfl

/-- R127: sampling reaches no port. -/
theorem ports_sampleAll (s : State) : s.sampleAll.ports = s.ports :=
  (ports_asOneEvent _ s).trans
    (foldl_rel (rel := fun s t : State => t.ports = s.ports) (fun _ => rfl) (fun h k => k.trans h) ports_sampleLine allLines
      s.opened)

/-- R66, R89: a change of the lines that is one event reaches no port. -/
theorem ports_asOneEvent_lines {f : State → State} (hf : LinesOnly s.opened (f s.opened)) :
    (State.asOneEvent f s).ports = s.ports := (ports_asOneEvent f s).trans hf.ports

/-- R189: a device reset resets the part, or has no effect but on the count of free values. -/
theorem deviceReset_cases {cause : ResetCause} (h : exec (.deviceReset cause) s = .next t) :
    (∃ n, t = { s.enterReset with freeCount := n }) ∨ ∃ n, t = { s with freeCount := n } := by
  cases h
  cases cause with
  | powerOn => exact .inl ⟨_, rfl⟩
  | rstLow ns =>
    unfold State.pulseReset State.shortPulse
    dsimp only
    split
    · exact .inl ⟨_, rfl⟩
    · split
      · exact .inr ⟨_, rfl⟩
      · split
        · exact .inl ⟨_, rfl⟩
        · exact .inr ⟨_, rfl⟩

theorem ports_leaveReset (s : State) (x : Straps) : (s.leaveReset x).ports = s.ports := by rw [leaveReset_eq]

/-- R155 to R177: every command and event keeps the laws of the ports, at the bus address it finds. -/
theorem exec_portsOk {i : Instr} (h : exec i s = .next t) (law : s.PortsOk s.busAddress) : t.PortsOk s.busAddress := by
  have kept : ∀ {f : State → State}, (∀ u : State, (f u).ports = u.ports) → s.takes f = .next t →
      t.PortsOk s.busAddress := fun ports h =>
    takes_keep (P := State.PortsOk s.busAddress) (fun u law => law.of_ports (ports u)) h law
  cases own : Instr.ownerCommand i with
  | some row => exact row_portsOk own h law
  | none =>
    cases i with
    | deviceReset cause =>
      obtain ⟨n, rfl⟩ | ⟨n, rfl⟩ := deviceReset_cases h
      · exact (portsOk_reset _).of_ports rfl
      · exact law.of_ports rfl
    | deviceResetEnd x =>
      cases h
      split
      · exact law.of_ports (ports_leaveReset s x)
      · exact law
    | millisecondTick order => exact takes_keep (fun u law => tick_portsOk order law) h law
    | settleExpiry i =>
      simp only [exec, execSettleExpiry] at h
      refine takes_keep (P := State.PortsOk s.busAddress) (fun u law => ?_) h law
      split
      · exact tick_portsOk [i] law
      · exact law
    | sampleTick =>
      simp only [exec, execSampleTick] at h
      refine takes_keep (P := State.PortsOk s.busAddress) (fun u law => ?_) h law
      split
      · exact law
      · exact (law.of_ports (ports_sampleAll u)).noted (.inr rfl)
    | busTimeout p => exact portEvent_portsOk (fun _ ok _ => ok) h law
    | busError p c => exact portEvent_portsOk (fun _ ok _ => ok.condition c) h law
    | startCondition p => exact portEvent_portsOk (fun _ ok _ => ok.condition .start) h law
    | stopCondition p => exact portEvent_portsOk (fun _ ok _ => ok.condition .stop) h law
    | addressByte p b => exact portEvent_portsOk (fun _ ok _ => ok.addressByte b) h law
    | commandFrame p bytes scl =>
      exact portEvent_portsOk (fun _ ok time => ok.commandFrame time p (s.isSupervisor p) bytes scl) h law
    | responseRead p answers scl => exact portEvent_portsOk (fun _ ok time => ok.responseRead time answers scl) h law
    | renewExpiry id =>
      simp only [exec, execRenewExpiry] at h
      refine kept (fun u => ?_) h
      split
      · exact (ports_asOneEvent _ u).trans (endLeaseAndScan_controllerOnly _ _ _).ports
      · rfl
    | waitLapse ticket =>
      simp only [exec, execWaitLapse] at h
      refine kept (fun u => ?_) h
      split
      · exact ((removeClaims_claimsOnly _ _ u).trans (scan_claimsOnly _)).ports
      · rfl
    | offerLapse id =>
      simp only [exec, execOfferLapse] at h
      refine kept (fun u => ?_) h
      split
      · rfl
      · rfl
    | pulseCompletion i =>
      simp only [exec, execPulseCompletion] at h
      refine kept (fun u => ?_) h
      split
      · exact ports_asOneEvent_lines (completePulse_linesOnly i _ _)
      all_goals rfl
    | externalStateChange i x =>
      cases h
      split
      · exact law.of_ports rfl
      · exact law.of_ports (ports_asOneEvent_lines (s := s.setExternal i x) (writeLine_linesOnly i _ _))
    | filteredReport i =>
      simp only [exec, execFilteredReport] at h
      refine kept (fun u => ?_) h
      split
      · exact ports_asOneEvent_lines (takeReport_linesOnly i _ _)
      · rfl
    | arrival i =>
      simp only [exec, execArrival] at h
      refine kept (fun u => ?_) h
      split
      · exact (raiseEdges_recordsOnly i _ .raw _).ports
      · rfl
    | _ => cases own

/-! ### Every step -/

/-- R155, R156: every command keeps the laws of the ports; what changes the bus address finds the ports in their reset
values. -/
theorem exec_portLaw {i : Instr} (h : exec i s = .next t) (reset : ResetLaw s) (law : PortLaw s) : PortLaw t := by
  rw [portLaw_iff] at law ⊢
  have ports : t.PortsOk s.busAddress := exec_portsOk h law
  cases exec_happens h with
  | stands n => exact ports
  | boards => exact ports
  | runs _ moves =>
    have address : t.busAddress = s.busAddress := congrArg Standing.busAddress moves.standing
    rw [address]
    exact ports
  | resets n => exact (portsOk_reset _).of_ports rfl
  | starts x inReset =>
    have idle : (s.leaveReset x).ports = State.reset.ports := by
      rw [ports_leaveReset, reset inReset]
      rfl
    exact (portsOk_reset _).of_ports idle

/-- R189: and the reset values of a part in device reset. -/
theorem Happens.resetLaw (h : Happens s t) (law : ResetLaw s) : ResetLaw t := by
  intro inReset
  cases h with
  | stands n => exact congrArg (fun u : State => { u with freeCount := n }) (law inReset)
  | boards i x inReset => exact congrArg (fun u : State => u.setExternal i x) (law inReset)
  | runs running moves => simp [moves.inReset, running] at inReset
  | resets n => rfl
  | starts x _ =>
    rw [leaveReset_eq] at inReset
    cases inReset

theorem ResetLaw.pending (law : ResetLaw s) (rest : List Instr) : ResetLaw { s with pending := rest } := fun inReset =>
  congrArg (fun u : State => { u with pending := rest }) (law inReset)

/-- Settles O14: the ports by their events, and the reset values by what happens to a part in device reset. -/
theorem stepKeepsPortsAndResetValues : Obligations.StepKeepsPortsAndResetValues := by
  intro s t h reset
  unfold step at h
  split at h
  · cases h
    exact ⟨reset, id⟩
  · rename_i i rest _
    have reset' := reset.pending rest
    exact ⟨(exec_happens h).resetLaw reset', fun law => exec_portLaw h reset' law⟩

end

end Sys2Proof.Machine
end

section
/-! PROOF. PULSE and its completion (R94, R95, R97), and the filtered report (R90, R100). -/

namespace Sys2Proof.Machine

/-! ### A line that is driven -/

/-- R62: a line that is driven reaches no event queue. -/
theorem queues_driveLine (s : State) (x : Line) (r : LineRec) : (s.driveLine x r).queues = s.queues :=
  queues_writeLine s x _

/-- R63, R66: the lines after line `x` is driven with what `f` makes of its record, but for its raw and keeper level. -/
theorem line_driveWith {f : LineRec → LineRec} (levels : ∀ r, (f r).raw = r.raw ∧ (f r).keeper = r.keeper) (s : State)
    (x i : Line) : (s.driveLine x (f (s.line x))).line i =
      if i = x then LineRec.after s.external[i] (s.line i) (f (s.line i)) else s.line i := by
  obtain ⟨raw, keeper⟩ := levels (s.line x)
  rw [line_driveLine raw keeper]
  split
  · rename_i same
    rw [same]
  · rfl

/-- R103: a record that is raised leaves the lines. -/
theorem line_raiseHolder (b : Option Binding) (e : Event) (s : State) (i : Line) :
    (s.raiseHolder b e).line i = s.line i := by
  cases b <;> rfl

/-- R66, R128: what an event of the line matrix leaves: the lines and records of its steps, and their changes of raw level
in one list. -/
theorem lineEvent {f : State → State} {s u : State} {lines : List Line} (steps : f s.opened = u)
    (frame : LinesOnly s.opened u) (hands : HandsOn (rawChanges lines s.opened u) s.opened u) :
    ∃ t, State.asOneEvent f s = t ∧ t = { s with lines := t.lines, arrivals := t.arrivals, queues := t.queues }
      ∧ (∀ i, t.line i = u.line i) ∧ HandedOn lines s t
      ∧ ∀ h events, Received h events s.opened u → Received h events s t := by
  have event := asOneEvent_lines steps frame.withPorts hands
  have handed := asOneEvent_handedOn steps frame.withPorts hands
  have ports : u.ports = s.ports := frame.ports
  have time : u.timestamp = s.timestamp := frame.timestamp
  rw [ports] at event
  generalize State.asOneEvent f s = t at event handed
  refine ⟨t, rfl, by rw [event], fun i => by rw [event]; rfl, handed, fun h events told => ?_⟩
  exact told.congr rfl (by rw [event]) (by rw [event, time])

/-! ### PULSE -/

/-- R95: the record of a line on which a pulse starts. -/
def LineRec.pulsed (v : Level) (duration : Nat) (r : LineRec) : LineRec :=
  { r with level := v, function := .pulse v r.level duration }

theorem startPulse_eq (x : Line) (v : Level) (duration : Nat) (s : State) :
    s.startPulse x v duration = s.driveLine x ((s.line x).pulsed v duration) := rfl

/-- R94: a PULSE of right form by the holder of a PLAIN line has the direction of the line judged last. -/
theorem pulseCheck_of {s : State} {caller : Host} {ps : List Byte} {x : Line} {v : Level}
    (line : (param ps 1).toNat = x.val) (level : (param ps 2).toNat = if v then 1 else 0) (duration : param16 ps 3 ≠ 0)
    (held : s.holderCheck caller (param ps 0).toNat [x] = none) (plain : (s.line x).function = .plain) :
    s.pulseCheck caller ps = if (s.line x).direction = .input then .error .badParam else .ok (x, v) := by
  simp [State.pulseCheck, line, lineOf_val, level, bitOf_bit, duration, held, plain]

/-- Settles O43: the checks of PULSE end with the direction, and a line that is OUT is driven with the pulse. -/
theorem pulseTakesThePulseLevel : Obligations.PulseTakesThePulseLevel := by
  intro s p tag x v waiting id line level duration own plain
  have held : s.holderCheck p (s.arg p 0) [x] = none := holderCheck_held id (by simp) (by simpa using own)
  have check := pulseCheck_of line level duration held plain
  refine ⟨fun input => ?_, fun output => ?_⟩
  · rw [if_pos input] at check
    exact exec_pulse_refused waiting check
  · rw [if_neg (by simp [output])] at check
    have passed : s.opened.pulseCheck p (s.port p).params = .ok (x, v) := check
    have body : State.pulseBody p (s.port p).params s.opened =
        (s.opened.driveLine x ((s.opened.line x).pulsed v (param16 (s.port p).params 3)), Reply.ok) := by
      simp only [State.pulseBody, passed, startPulse_eq]
    obtain ⟨t, ht, frame, handed, answered⟩ :=
      exec_lineMatrix (i := .pulse p) (lines := [x]) (applies := fun _ => true) rfl waiting rfl body
        (driveLine_linesOnly x _ s.opened) (handsOn_driveLine rfl)
    rw [queues_driveLine] at frame
    refine ⟨t, ht, ?_, fun i => ?_, handed, answered⟩
    · rw [frame]
      rfl
    · exact (line_congr (congrArg State.lines frame) i).trans
        (line_driveWith (f := LineRec.pulsed v _) (fun _ => ⟨rfl, rfl⟩) s.opened x i)

/-! ### The pulse completion -/

/-- R97: the record of a line whose pulse ends. -/
def LineRec.reverted (revert : Level) (r : LineRec) : LineRec := { r with level := revert, function := .plain }

/-- R97: a completion drives the line with its revert level and tells its holder. -/
theorem completePulse_eq {s : State} {x : Line} {b : Binding} (revert : Level) (bound : (s.line x).holder = some b) :
    s.completePulse x revert =
      (s.driveLine x ((s.line x).reverted revert)).raiseHolder (s.line x).holder (.pulseDone x b.lease) := by
  unfold State.completePulse
  rw [bound]
  rfl

theorem line_completePulse (s : State) (x : Line) (revert : Level) (i : Line) : (s.completePulse x revert).line i =
    if i = x then LineRec.after s.external[i] (s.line i) ((s.line i).reverted revert) else s.line i :=
  (line_raiseHolder _ _ _ i).trans (line_driveWith (f := LineRec.reverted revert) (fun _ => ⟨rfl, rfl⟩) s x i)

theorem handsOn_completePulse (s : State) (x : Line) (revert : Level) :
    HandsOn (rawChanges [x] s (s.completePulse x revert)) s (s.completePulse x revert) :=
  (handsOn_driveLine (r := (s.line x).reverted revert) rfl).raiseHolder _ _

theorem received_completePulse {s : State} {x : Line} {b : Binding} (revert : Level)
    (bound : (s.line x).holder = some b) (h : Host) :
    Received h (if b.host = h then [.pulseDone x b.lease] else []) s (s.completePulse x revert) := by
  have told := received_raiseHolder_driveLine s x ((s.line x).reverted revert) (s.line x).holder
    (.pulseDone x b.lease) h
  rw [← completePulse_eq revert bound, bound, Option.map_some] at told
  simpa only [Option.some.injEq] using told

/-- Settles O44: a due completion is one event that drives the line back; any other is not taken. -/
theorem pulseCompletionRevertsTheLevel : Obligations.PulseCompletionRevertsTheLevel := by
  intro s x running
  refine ⟨fun level revert b due bound => ?_, fun notDue => ?_⟩
  · have meaning : exec (.pulseCompletion x) s = .next (State.asOneEvent (State.completePulse x revert) s) := by
      simp only [exec, execPulseCompletion, takes_running running, due]
    obtain ⟨t, event, frame, lines, handed, received⟩ :=
      lineEvent (f := State.completePulse x revert) rfl (completePulse_linesOnly x revert s.opened)
        (handsOn_completePulse s.opened x revert)
    have told := fun h => received h _ (received_completePulse (s := s.opened) revert bound h)
    refine ⟨t, meaning.trans (congrArg _ event), frame,
      fun i => (lines i).trans (line_completePulse s.opened x revert i), handed, ?_, fun h other => ?_⟩
    · simpa using told b.host
    · simpa [Received, Ne.symm other] using told h
  · simp only [exec, execPulseCompletion, takes_running running]
    split
    · rename_i due
      exact absurd due (notDue _ _)
    all_goals rfl

/-! ### The mirrors follow -/

/-- R87: the record is an unfaulted mirror of `source`. -/
def LineRec.follows (source : Line) (r : LineRec) : Bool :=
  match r.function with
  | .mirror src _ false => src == source
  | .mirror _ _ true | .plain | .pulse _ _ _ => false

theorem followsSource_eq_follows (s : State) (source m : Line) :
    s.followsSource source m = (s.line m).follows source := rfl

/-- R90: the record of a mirror that follows filtered level `v`. -/
def LineRec.following (v : Level) (r : LineRec) : LineRec :=
  { r with level := match r.function with
      | .mirror _ invert _ => xor v invert
      | .plain => r.level
      | .pulse _ _ _ => r.level }

/-- R90, step 1: the unfaulted mirrors of line `x` follow filtered level `v`, in ascending line order. -/
def State.followMirrors (x : Line) (v : Level) (s : State) : State :=
  allLines.foldl (fun t m => t.followMirror x v m) s

section

variable (s : State) (x : Line) (v : Level)

theorem takeReport_eq : s.takeReport x v = (s.followMirrors x v).driveTest x v := rfl

/-- R90: a mirror that follows the source is driven with its new level. -/
theorem followMirror_of_follows {m : Line} (follows : s.followsSource x m = true) :
    s.followMirror x v m = s.driveLine m ((s.line m).following v) := by
  unfold State.followsSource at follows
  unfold State.followMirror LineRec.following
  split at follows
  · rename_i src invert mirror
    simp only [mirror, beq_iff_eq.mp follows, if_true]
  all_goals cases follows

theorem followMirror_of_not_follows {m : Line} (follows : s.followsSource x m = false) : s.followMirror x v m = s := by
  unfold State.followsSource at follows
  unfold State.followMirror
  split
  · rename_i src invert mirror
    simp only [mirror, beq_eq_false_iff_ne] at follows
    exact if_neg follows
  all_goals rfl

/-- R90: the lines after the mirrors of line `x` follow: its unfaulted mirrors have the new level, and others stand. -/
theorem line_followMirrors (i : Line) : (s.followMirrors x v).line i =
    if s.followsSource x i then LineRec.after s.external[i] (s.line i) ((s.line i).following v) else s.line i := by
  have folded := line_foldl (g := fun t m => t.followMirror x v m)
    (f := fun e i r => if r.follows x then LineRec.after e[i] r (r.following v) else r)
    (fun t m => (followMirror_linesOnly x v m t).external)
    (fun t m j => by
      rw [line_followMirror, followsSource_eq_follows]
      by_cases own : j = m
      · subst own
        simp only [true_and, if_true]
        rfl
      · simp only [own, false_and, if_false])
    allLines_nodup s i
  rw [if_pos (mem_allLines i)] at folded
  exact folded

theorem handsOn_followMirror (m : Line) :
    HandsOn (rawChanges [m] s (s.followMirror x v m)) s (s.followMirror x v m) := by
  cases follows : s.followsSource x m with
  | true =>
    rw [followMirror_of_follows s x v follows]
    exact handsOn_driveLine (r := (s.line m).following v) rfl
  | false =>
    rw [followMirror_of_not_follows s x v follows, rawChanges_self]
    exact .of_same rfl

/-- R66, R90: their changes of raw level are handed on in ascending line order. -/
theorem handsOn_followMirrors : HandsOn (rawChanges allLines s (s.followMirrors x v)) s (s.followMirrors x v) := by
  have folded := handsOn_foldl (g := fun t m => t.followMirror x v m) (key := id)
    (fun t m j (other : j ≠ m) => by rw [line_followMirror, if_neg fun h => other h.1])
    (fun t m => handsOn_followMirror t x v m) allLines (by simpa using allLines_nodup) s
  rwa [List.map_id] at folded

theorem queues_followMirrors : (s.followMirrors x v).queues = s.queues :=
  foldl_rel (rel := fun s t : State => t.queues = s.queues) (fun _ => rfl) (fun h k => k.trans h)
    (fun t m => by
      cases follows : t.followsSource x m with
      | true => rw [followMirror_of_follows t x v follows, queues_driveLine]
      | false => rw [followMirror_of_not_follows t x v follows]) allLines s

/-! ### The drive test of a report -/

/-- R100: the lines after a drive test: the one tested has its flag set if it is contested. -/
theorem line_driveTest_tested (i : Line) :
    (s.driveTest x v).line i = if i = x then (s.line i).tested v else s.line i := by
  rw [line_driveTest]
  by_cases same : i = x
  · subst same
    cases contested : (s.line i).contested v <;> simp [LineRec.tested, contested]
  · simp [same]

/-- R100: a drive test hands nothing on. -/
theorem handsOn_driveTest {lines : List Line} {u : State} (h : HandsOn (rawChanges lines u s) u s) :
    HandsOn (rawChanges lines u (s.driveTest x v)) u (s.driveTest x v) := by
  have raw : ∀ i, ((s.driveTest x v).line i).raw = (s.line i).raw := fun i => by
    rw [line_driveTest_tested]
    split <;> rfl
  have arrivals : (s.driveTest x v).arrivals = s.arrivals := by
    unfold State.driveTest
    split
    · cases (s.line x).holder <;> rfl
    · rfl
  rw [rawChanges_congr (fun _ _ => rfl) fun i _ => raw i]
  intro bs b e
  rw [arrivals]
  exact h bs b e

/-- R100, R103: the holder of a contested line is told what it drives. -/
theorem received_driveTest (h : Host) :
    Received h (if (s.line x).heldBy h then (((s.line x).contested v).map fun d => Event.mismatch x d).toList else []) s
      (s.driveTest x v) := by
  unfold Received
  rw [eventQueue_driveTest, (driveTest_linesOnly x v s).timestamp]
  cases (s.line x).contested v with
  | none => simp
  | some d => by_cases held : (s.line x).holder.map (fun b => b.host) = some h <;> simp [LineRec.heldBy, held]

end

/-- R87, R88: no unfaulted mirror is its own source. -/
theorem MirrorLaw.not_own_source {s : State} (law : MirrorLaw s) (x : Line) : s.followsSource x x = false := by
  by_contra own
  rw [Bool.not_eq_false] at own
  unfold State.followsSource at own
  split at own
  · rename_i src invert mirror
    obtain ⟨out, input⟩ := law x src invert false mirror
    rw [beq_iff_eq.mp own, out] at input
    cases input rfl
  all_goals cases own

/-! ### The report -/

section

variable {s : State} {x : Line} (own : s.followsSource x x = false) (v : Level)

include own

/-- R90: the source of the mirrors that follow stands while they do. -/
theorem line_followMirrors_source : (s.followMirrors x v).line x = s.line x := by
  rw [line_followMirrors, own]
  rfl

/-- R90, R100: the lines after a report: the mirrors follow, and the line reported is tested. -/
theorem line_takeReport (i : Line) : (s.takeReport x v).line i =
    if i = x then (s.line x).tested v
    else if s.followsSource x i then LineRec.after s.external[i] (s.line i) ((s.line i).following v)
    else s.line i := by
  rw [takeReport_eq, line_driveTest_tested]
  by_cases same : i = x
  · subst same
    rw [if_pos rfl, if_pos rfl, line_followMirrors_source own]
  · rw [if_neg same, if_neg same, line_followMirrors]

/-- R100, R103: what a report tells a host is what the drive test of the line finds. -/
theorem received_takeReport (h : Host) :
    Received h (if (s.line x).heldBy h then (((s.line x).contested v).map fun d => Event.mismatch x d).toList else []) s
      (s.takeReport x v) := by
  have tested := received_driveTest (s.followMirrors x v) x v h
  rw [line_followMirrors_source own] at tested
  exact (Received.of_same (queues_followMirrors s x v)).trans tested (driveTest_linesOnly x v _).timestamp

end

/-- Settles O47: a report is one event in which the mirrors of its line follow and the line's own drive is tested. -/
theorem filteredReportMovesTheMirrors : Obligations.FilteredReportMovesTheMirrors := by
  refine ⟨fun x v batches rest => takeChange_iff, fun s x none => ?_, fun s x v rest running law taken => ?_⟩
  · cases inReset : s.inReset with
    | true => simp only [exec, execFilteredReport, takes_inReset inReset]
    | false => simp only [exec, execFilteredReport, takes_running inReset, none]
  · have meaning : exec (.filteredReport x) s =
        .next (State.asOneEvent (State.takeReport x v) { s with reports := rest }) := by
      simp only [exec, execFilteredReport, takes_running running, taken]
    have own : (State.opened { s with reports := rest }).followsSource x x = false := law.not_own_source x
    obtain ⟨t, event, frame, lines, handed, received⟩ :=
      lineEvent (f := State.takeReport x v) (s := { s with reports := rest }) rfl (takeReport_linesOnly x v _)
        (handsOn_driveTest _ x v (handsOn_followMirrors _ x v))
    have line := fun i => (lines i).trans (line_takeReport own v i)
    refine ⟨t, meaning.trans (congrArg _ event), frame, fun m other => ?_, ?_, handed,
      fun h => received h _ (received_takeReport own v h)⟩
    · rw [line, if_neg other]
      rfl
    · rw [line, if_pos rfl]
      rfl

end Sys2Proof.Machine
end

section
/-! PROOF. The mirrors (R87, R88, R90, R91, R93): no step makes a line OUT that an unfaulted mirror follows, and none
leaves the output level of such a mirror off its source's filtered level once the reports are taken. -/

namespace Sys2Proof.Machine

/-! ### What keeps the laws of the mirrors -/

/-- R87: where the record is a mirror it was one, and none loses its fault; a mirror keeps its source, its invert and its
direction, and an unfaulted one its output level. -/
def LineRec.MirrorStays (r r' : LineRec) : Prop :=
  ∀ source invert fault, r'.function = .mirror source invert fault → r'.direction = r.direction
    ∧ ∃ fault', r.function = .mirror source invert fault' ∧ (fault = false → fault' = false ∧ r'.level = r.level)

/-- Besides, the direction of the line stands. -/
def LineRec.MirrorKept (r r' : LineRec) : Prop := r.MirrorStays r' ∧ r'.direction = r.direction

/-- The mirrors stay, and so do the reports in flight and the filtered levels. -/
structure MirrorsStay (s t : State) : Prop where
  reports : ∀ i, inFlight i t.reports = inFlight i s.reports
  filtered : ∀ i, (t.input i).filtered = (s.input i).filtered
  mirrors : ∀ i, (s.line i).MirrorStays (t.line i)

/-- R88: and a line that an unfaulted mirror follows stays IN. -/
structure MirrorsKept (s t : State) : Prop extends MirrorsStay s t where
  sources : ∀ source m, t.followsSource source m = true → (s.line source).direction = .input →
    (t.line source).direction = .input

/-- Both laws of the mirrors are kept. -/
def KeepsMirrors (s t : State) : Prop := (MirrorLaw s → MirrorLaw t) ∧ (MirrorFollowsLaw s → MirrorFollowsLaw t)

theorem followsSource_iff {s : State} {source m : Line} :
    s.followsSource source m = true ↔ ∃ invert, (s.line m).function = .mirror source invert false := by
  unfold State.followsSource
  split
  · rename_i src invert mirror
    rw [mirror, beq_iff_eq]
    exact ⟨fun same => ⟨invert, by rw [same]⟩, fun ⟨_, same⟩ => (LineFunction.mirror.inj same).1⟩
  all_goals simp [*]

section

variable {r r' r'' : LineRec}

theorem LineRec.MirrorStays.refl (r : LineRec) : r.MirrorStays r := fun _ _ fault mirror =>
  ⟨rfl, fault, mirror, fun clear => ⟨clear, rfl⟩⟩

theorem LineRec.MirrorStays.trans (h : r.MirrorStays r') (k : r'.MirrorStays r'') : r.MirrorStays r'' := by
  intro source invert fault mirror
  obtain ⟨direction', fault', mirror', follows'⟩ := k source invert fault mirror
  obtain ⟨direction, fault'', mirror'', follows⟩ := h source invert fault' mirror'
  refine ⟨direction'.trans direction, fault'', mirror'', fun clear => ?_⟩
  obtain ⟨clear', level'⟩ := follows' clear
  obtain ⟨clear'', level⟩ := follows clear'
  exact ⟨clear'', level'.trans level⟩

/-- A record with the function, the direction and the level of before. -/
theorem LineRec.MirrorStays.of_same (function : r'.function = r.function) (direction : r'.direction = r.direction)
    (level : r'.level = r.level) : r.MirrorStays r' := fun _ _ fault mirror =>
  ⟨direction, fault, function.symm.trans mirror, fun clear => ⟨clear, level⟩⟩

/-- A record that is no mirror. -/
theorem LineRec.MirrorStays.of_other (other : ∀ source invert fault, r'.function ≠ .mirror source invert fault) :
    r.MirrorStays r' := fun source invert fault mirror => absurd mirror (other source invert fault)

/-- R91: a mirror that faults. -/
theorem mirrorStays_withFault (r : LineRec) : r.MirrorStays r.withFault := by
  unfold LineRec.withFault
  split
  · rename_i src invert fault mirror
    intro source invert' fault' mirror'
    cases mirror'
    exact ⟨rfl, fault, mirror, fun clear => by cases clear⟩
  · exact .refl r
  · exact .refl r

theorem direction_withFault (r : LineRec) : r.withFault.direction = r.direction := by
  unfold LineRec.withFault
  split <;> rfl

theorem LineRec.MirrorKept.refl (r : LineRec) : r.MirrorKept r := ⟨.refl r, rfl⟩

/-- R66, R91: a mirror whose fault is driven. -/
theorem mirrorKept_fault (x : External) (r : LineRec) : r.MirrorKept (LineRec.after x r r.withFault) :=
  ⟨(mirrorStays_withFault r).trans (.of_same rfl rfl rfl), direction_withFault r⟩

/-- R96, R99: a mirror at a millisecond tick. -/
theorem mirrorStays_tick (r : LineRec) : r.MirrorStays r.tick := by
  cases function : r.function with
  | plain | pulse => exact .of_other fun _ _ _ => by simp [LineRec.tick, function, LineFunction.tick]
  | mirror => exact .of_same (by simp [LineRec.tick, function, LineFunction.tick]) rfl rfl

end

section

variable {s t u : State}

theorem MirrorsStay.refl (s : State) : MirrorsStay s s := ⟨fun _ => rfl, fun _ => rfl, fun _ => .refl _⟩

theorem MirrorsStay.trans (h : MirrorsStay s t) (k : MirrorsStay t u) : MirrorsStay s u where
  reports i := (k.reports i).trans (h.reports i)
  filtered i := (k.filtered i).trans (h.filtered i)
  mirrors i := (h.mirrors i).trans (k.mirrors i)

/-- R87: no line comes to follow a source. -/
theorem MirrorsStay.follows (h : MirrorsStay s t) {source m : Line} (follows : t.followsSource source m = true) :
    s.followsSource source m = true := by
  obtain ⟨invert, mirror⟩ := followsSource_iff.mp follows
  obtain ⟨-, fault, mirror', clear⟩ := h.mirrors m source invert false mirror
  obtain ⟨rfl, -⟩ := clear rfl
  exact followsSource_iff.mpr ⟨invert, mirror'⟩

theorem MirrorsKept.refl (s : State) : MirrorsKept s s := ⟨.refl s, fun _ _ _ input => input⟩

theorem MirrorsKept.trans (h : MirrorsKept s t) (k : MirrorsKept t u) : MirrorsKept s u :=
  ⟨h.toMirrorsStay.trans k.toMirrorsStay, fun source m follows input =>
    k.sources source m follows (h.sources source m (k.follows follows) input)⟩

theorem MirrorsKept.foldl {α : Type} {g : State → α → State} (step : ∀ s x, MirrorsKept s (g s x)) (xs : List α)
    (s : State) : MirrorsKept s (xs.foldl g s) :=
  foldl_rel MirrorsKept.refl .trans step xs s

/-- Where no line's direction changes, no source becomes OUT. -/
theorem MirrorsStay.kept (h : MirrorsStay s t) (direction : ∀ i, (t.line i).direction = (s.line i).direction) :
    MirrorsKept s t := ⟨h, fun source _ _ input => (direction source).trans input⟩

/-- R87, R88, R93: such a step keeps the laws. -/
theorem MirrorsKept.keeps (h : MirrorsKept s t) : KeepsMirrors s t := by
  refine ⟨fun law i source invert fault mirror => ?_,
    fun ⟨newest, level⟩ => ⟨fun i => ?_, fun i source invert mirror none => ?_⟩⟩
  · obtain ⟨direction, fault', mirror', follows⟩ := h.mirrors i source invert fault mirror
    obtain ⟨out, input⟩ := law i source invert fault' mirror'
    refine ⟨direction.trans out, fun clear => ?_⟩
    subst clear
    exact h.sources source i (followsSource_iff.mpr ⟨invert, mirror⟩) (input (follows rfl).1)
  · rw [h.reports, h.filtered]
    exact newest i
  · obtain ⟨-, fault', mirror', follows⟩ := h.mirrors i source invert false mirror
    obtain ⟨rfl, same⟩ := follows rfl
    rw [h.reports] at none
    rw [same, h.filtered]
    exact level i source invert mirror' none

/-- What the mirrors' laws speak of. -/
structure MirrorSide where
  lines   : Vector LineRec 24
  inputs  : Vector InputRec 24
  reports : List (List LevelChange)

def State.mirrorSide (s : State) : MirrorSide := ⟨s.lines, s.inputs, s.reports⟩

theorem MirrorsKept.of_records (inputs : t.inputs = s.inputs) (reports : t.reports.flatten = s.reports.flatten)
    (records : ∀ i, (s.line i).MirrorKept (t.line i)) : MirrorsKept s t :=
  MirrorsStay.kept ⟨fun i => inFlight_congr i reports, fun i => by rw [State.input, State.input, inputs],
    fun i => (records i).1⟩ fun i => (records i).2

theorem MirrorsKept.of_same (h : t.mirrorSide = s.mirrorSide) : MirrorsKept s t := by
  simp only [State.mirrorSide, MirrorSide.mk.injEq] at h
  obtain ⟨lines, inputs, reports⟩ := h
  exact .of_records inputs (by rw [reports]) fun i => by
    rw [line_congr lines]
    exact .refl _

theorem ControllerOnly.mirrorsKept (frame : ControllerOnly s t) (records : ∀ i, (s.line i).MirrorKept (t.line i)) :
    MirrorsKept s t := by
  unfold ControllerOnly at frame
  exact .of_records (by rw [frame]) (by rw [frame]) records

/-- R68, R69: bindings have no part in it. -/
theorem ControllerOnly.mirrorsKept_of_holders (frame : ControllerOnly s t)
    (holders : ∀ i, ∃ b, t.line i = { s.line i with holder := b }) : MirrorsKept s t :=
  frame.mirrorsKept fun i => by
    obtain ⟨b, line⟩ := holders i
    rw [line]
    exact ⟨.of_same rfl rfl rfl, rfl⟩

theorem RecordsOnly.mirrorsKept (h : RecordsOnly s t) : MirrorsKept s t := .of_same (by rw [h]; rfl)

theorem KeepsMirrors.refl (s : State) : KeepsMirrors s s := ⟨id, id⟩

theorem KeepsMirrors.trans (h : KeepsMirrors s t) (k : KeepsMirrors t u) : KeepsMirrors s u :=
  ⟨k.1 ∘ h.1, k.2 ∘ h.2⟩

/-- R88: the mirrors and the directions of the lines stand. -/
theorem MirrorLaw.congr (law : MirrorLaw s) (function : ∀ i, (t.line i).function = (s.line i).function)
    (direction : ∀ i, (t.line i).direction = (s.line i).direction) : MirrorLaw t := by
  intro i source invert fault mirror
  rw [direction, direction]
  exact law i source invert fault ((function i).symm.trans mirror)

theorem LinesOnly.reports (h : LinesOnly s t) : t.reports = s.reports := by
  rw [h]

theorem LinesOnly.input (h : LinesOnly s t) (i : Line) : t.input i = s.input i := by
  rw [h]
  rfl

end

/-! ### Shared operations -/

section

variable (s : State)

/-- R66: a record is written that keeps its mirror function and its direction. -/
theorem writeLine_mirrorsKept (x : Line) {r : LineRec} (stays : (s.line x).MirrorStays r)
    (direction : r.direction = (s.line x).direction) : MirrorsKept s (s.writeLine x r) :=
  (writeLine_linesOnly x r s).controllerOnly.mirrorsKept fun i => by
    rw [line_writeLine_eq]
    split
    · rename_i same
      rw [same]
      exact ⟨stays.trans (.of_same rfl rfl rfl), direction⟩
    · exact .refl _

theorem settled_settings (old new : LineRec) : (LineRec.settled old new).function = new.function
    ∧ (LineRec.settled old new).direction = new.direction ∧ (LineRec.settled old new).level = new.level := by
  unfold LineRec.settled
  split <;> exact ⟨rfl, rfl, rfl⟩

/-- R63, R66: so is a record that a line is driven with. -/
theorem driveLine_mirrorsKept (x : Line) {r : LineRec} (stays : (s.line x).MirrorStays r)
    (direction : r.direction = (s.line x).direction) : MirrorsKept s (s.driveLine x r) := by
  obtain ⟨function, direction', level⟩ := settled_settings (s.line x) r
  exact writeLine_mirrorsKept s x (stays.trans (.of_same function direction' level)) (direction'.trans direction)

/-- R91: the mirrors of a line that is presented may fault, and no line changes its direction. -/
theorem present_record (source i : Line) : (s.line i).MirrorKept ((s.present source).line i) := by
  rw [line_present]
  split
  · exact mirrorKept_fault _ _
  · exact .refl _

theorem present_mirrorsKept (source : Line) : MirrorsKept s (s.present source) :=
  (present_linesOnly source s).controllerOnly.mirrorsKept (present_record s source)

/-- R88, R91: a line that is presented and is OUT has no unfaulted mirror left. -/
theorem not_follows_present {source : Line} (out : (s.line source).direction = .output) (m : Line) :
    (s.present source).followsSource source m = false := by
  by_contra follows
  rw [Bool.not_eq_false] at follows
  have before := (present_mirrorsKept s source).follows follows
  have line : (s.present source).line m = LineRec.after s.external[m] (s.line m) (s.line m).withFault := by
    rw [line_present, if_pos ⟨out, before⟩]
  rw [not_follows_of_fault line before] at follows
  cases follows

theorem grant_mirrorsKept (h : Host) (entries : List LineEntry) (interval : Nat) :
    MirrorsKept s (s.grant h entries interval) :=
  (grant_controllerOnly h entries interval s).mirrorsKept_of_holders fun i => by
    rw [line_grant]
    split
    · exact ⟨_, rfl⟩
    · exact ⟨(s.line i).holder, rfl⟩

theorem scan_mirrorsKept : MirrorsKept s s.scan := by
  obtain ⟨grants, -, lines, -⟩ := scan_spec s
  exact (scan_controllerOnly s).mirrorsKept_of_holders fun i => ⟨_, lines i⟩

theorem scanIf_mirrorsKept (removed : Bool) : MirrorsKept s (s.scanIf removed) := by
  cases removed
  · exact .refl s
  · exact scan_mirrorsKept s

theorem removeClaims_mirrorsKept (p : Claim → Bool) (reason : Option Reason) :
    MirrorsKept s (s.removeClaims p reason) := by
  rw [removeClaims_frame]
  exact .of_same rfl

theorem transfer_mirrorsKept (l : Lease) (h : Host) : MirrorsKept s (s.transfer l h) :=
  (transfer_controllerOnly l h s).mirrorsKept_of_holders fun i => ⟨_, line_transfer l h s i⟩

theorem driveTest_mirrorsKept (x : Line) (v : Level) : MirrorsKept s (s.driveTest x v) :=
  (driveTest_linesOnly x v s).controllerOnly.mirrorsKept fun i => by
    rw [line_driveTest_tested]
    split <;> exact ⟨.of_same rfl rfl rfl, rfl⟩

/-- R128: the lists in which an event's reports stand have no part in it. -/
theorem opened_mirrorsKept : MirrorsKept s s.opened :=
  .of_records rfl (by simp [State.opened]) fun _ => .refl _

theorem closed_mirrorsKept (f : State → State) : MirrorsKept (f s.opened) (State.asOneEvent f s) :=
  .of_records rfl (flatten_dropEmptyLast _) fun _ => .refl _

end

/-! ### Lease ends and teardowns -/

section

variable (entries : List LineEntry) (s : State)

/-- R81: a parked line is PLAIN. -/
theorem parkLine_mirrorsStay (e : LineEntry) : MirrorsStay s (s.parkLine e) := by
  have frame := parkLine_linesOnly e s
  unfold LinesOnly at frame
  refine ⟨fun i => by rw [frame], fun i => by rw [frame]; rfl, fun i => ?_⟩
  rw [line_parkLine_eq]
  split
  · exact .of_other fun _ _ _ => by simp [function_parkedUnder]
  · exact .refl _

theorem direction_presentFold (i : Line) :
    ((entries.foldl (fun t e => t.present e.line) s).line i).direction = (s.line i).direction :=
  have step : ∀ (t : State) (e : LineEntry), ((t.present e.line).line i).direction = (t.line i).direction := fun t e =>
    (present_record t e.line i).2
  foldl_rel (rel := fun s t : State => (t.line i).direction = (s.line i).direction) (fun _ => rfl)
    (fun h k => k.trans h) step entries s

theorem presentFold_mirrorsKept : MirrorsKept s (entries.foldl (fun t e => t.present e.line) s) :=
  .foldl (fun t e => present_mirrorsKept t e.line) entries s

/-- R82, R88: once the lines of the entries are presented, none of them that is OUT has an unfaulted mirror. -/
theorem not_follows_presentFold {source : Line} (covered : coversLine entries source = true)
    (out : (s.line source).direction = .output) (m : Line) :
    (entries.foldl (fun t e => t.present e.line) s).followsSource source m = false := by
  induction entries generalizing s with
  | nil => cases covered
  | cons e es ih =>
    rw [List.foldl_cons]
    by_cases own : e.line = source
    · subst own
      by_contra follows
      rw [Bool.not_eq_false] at follows
      have presented := (presentFold_mirrorsKept es _).follows follows
      rw [not_follows_present s out] at presented
      cases presented
    · refine ih _ ?_ ((present_record s e.line source).2.trans out)
      simpa [coversLine, own] using covered

theorem line_parkFold_other {i : Line} (other : coversLine entries i = false) :
    (entries.foldl (fun t e => t.parkLine e) s).line i = s.line i := by
  induction entries generalizing s with
  | nil => rfl
  | cons e es ih =>
    simp only [coversLine, List.any_cons, Bool.or_eq_false_iff, beq_eq_false_iff_ne] at other
    rw [List.foldl_cons, ih _ other.2, line_parkLine_eq, if_neg (Ne.symm other.1)]

/-- R81, R82, R91: the lines of an ending lease are parked, and the mirrors of those left OUT fault. -/
theorem parkLines_mirrorsKept : MirrorsKept s (s.parkLines entries) := by
  have parked : MirrorsStay s (entries.foldl (fun t e => t.parkLine e) s) :=
    foldl_rel MirrorsStay.refl .trans parkLine_mirrorsStay entries s
  refine ⟨parked.trans (presentFold_mirrorsKept entries _).toMirrorsStay, fun source m follows input => ?_⟩
  have direction := direction_presentFold entries (entries.foldl (fun t e => t.parkLine e) s) source
  unfold State.parkLines at follows ⊢
  rw [direction]
  cases covered : coversLine entries source with
  | false => rw [line_parkFold_other entries s covered, input]
  | true =>
    cases left : ((entries.foldl (fun t e => t.parkLine e) s).line source).direction with
    | input => rfl
    | output =>
      rw [not_follows_presentFold entries _ covered left] at follows
      cases follows

theorem endLease_mirrorsKept (l : Lease) (cause : EndCause) : MirrorsKept s (s.endLease l cause) := by
  have notices := (withdrawOffer_recordsOnly l cause s).trans (noticeLoss_recordsOnly l cause _)
  exact (notices.mirrorsKept.trans (parkLines_mirrorsKept l.entries _)).trans (.of_same rfl)

theorem endLeaseAndScan_mirrorsKept (l : Lease) (cause : EndCause) : MirrorsKept s (s.endLeaseAndScan l cause) :=
  (endLease_mirrorsKept s l cause).trans (scan_mirrorsKept _)

theorem endOfferTo_mirrorsKept (n : Host) (l : Lease) : MirrorsKept s (s.endOfferTo n l) := by
  rw [endOfferTo_eq]
  split
  · exact .of_same rfl
  · exact .refl s

theorem teardown_mirrorsKept (n : Host) (supervisor : Option Host) : MirrorsKept s (s.teardown n supervisor) := by
  have claims : MirrorsKept s (s.dismissClaims n) := removeClaims_mirrorsKept s _ none
  have offers : MirrorsKept (s.dismissClaims n) ((s.dismissClaims n).endOffersTo n) :=
    .foldl (fun t l => endOfferTo_mirrorsKept t n l) _ _
  have ends : MirrorsKept ((s.dismissClaims n).endOffersTo n) (s.shutOut n) :=
    .foldl (fun t l => endLease_mirrorsKept t l .teardown) _ _
  have cleared : MirrorsKept (s.shutOut n) (((s.shutOut n).unsubscribeAll n).updateQueue n fun _ =>
      EventQueue.clear (s.shutOut n).timestamp supervisor) := .of_same rfl
  rw [teardown_eq]
  exact (((claims.trans offers).trans ends).trans cleared).trans (scan_mirrorsKept _)

end

/-! ### CONFIGURE -/

/-- R87, R88, R89: record `r`, as line `x` is written with it, is no mirror, or a mirror of another line that is OUT and,
where it has no fault, follows a source that is IN. -/
def State.MakesMirror (s : State) (x : Line) (r : LineRec) : Prop :=
  ∀ source invert fault, r.function = .mirror source invert fault → source ≠ x ∧ r.direction = .output
    ∧ (fault = false → (s.line source).direction = .input ∧ r.level = xor (s.input source).filtered invert)

section

variable {s : State} {x : Line} {r : LineRec} (made : s.MakesMirror x r)

include made

theorem makesMirror_other_source (invert : Bool) : r.function ≠ .mirror x invert false := fun mirror =>
  (made _ _ _ mirror).1 rfl

theorem line_writeAndPresent_self : (s.writeAndPresent x r).line x = r.evaluated s.external[x] := by
  rw [line_writeAndPresent (makesMirror_other_source made), if_pos rfl]

theorem writeAndPresent_record {i : Line} (other : i ≠ x) : (s.line i).MirrorKept ((s.writeAndPresent x r).line i) := by
  rw [line_writeAndPresent (makesMirror_other_source made), if_neg other]
  split
  · exact mirrorKept_fault _ _
  · exact .refl _

/-- R91: a line that is still followed after it is presented is IN. -/
theorem direction_of_follows_writeAndPresent {i : Line} (follows : (s.writeAndPresent x r).followsSource x i = true) :
    ((s.writeAndPresent x r).line x).direction = .input := by
  rw [line_writeAndPresent_self made]
  cases left : r.direction with
  | input => exact left
  | output =>
    have cleared : (s.writeAndPresent x r).followsSource x i = false :=
      not_follows_present (s.writeLine x r) (direction_writeLine.trans left) i
    rw [cleared] at follows
    cases follows

theorem writeAndPresent_mirrorLaw (law : MirrorLaw s) : MirrorLaw (s.writeAndPresent x r) := by
  intro i source invert fault mirror
  by_cases same : i = x
  · subst same
    rw [line_writeAndPresent_self made] at mirror ⊢
    obtain ⟨other, out, follows⟩ := made source invert fault mirror
    exact ⟨out, fun clear => (writeAndPresent_record made other).2.trans (follows clear).1⟩
  · obtain ⟨direction, fault', mirror', follows⟩ := (writeAndPresent_record made same).1 source invert fault mirror
    obtain ⟨out, input⟩ := law i source invert fault' mirror'
    refine ⟨direction.trans out, fun clear => ?_⟩
    subst clear
    by_cases presented : source = x
    · subst presented
      exact direction_of_follows_writeAndPresent made (followsSource_iff.mpr ⟨invert, mirror⟩)
    · exact (writeAndPresent_record made presented).2.trans (input (follows rfl).1)

theorem writeAndPresent_mirrorFollowsLaw (law : MirrorFollowsLaw s) : MirrorFollowsLaw (s.writeAndPresent x r) := by
  obtain ⟨newest, level⟩ := law
  have frame := writeAndPresent_linesOnly x r s
  refine ⟨fun i => ?_, fun i source invert mirror none => ?_⟩
  · rw [frame.reports, frame.input]
    exact newest i
  · rw [frame.reports] at none
    rw [frame.input]
    by_cases same : i = x
    · subst same
      rw [line_writeAndPresent_self made] at mirror ⊢
      exact ((made source invert false mirror).2.2 rfl).2
    · obtain ⟨-, fault', mirror', follows⟩ := (writeAndPresent_record made same).1 source invert false mirror
      obtain ⟨rfl, kept⟩ := follows rfl
      exact kept.trans (level i source invert mirror' none)

/-- R76, R88, R89, R91: a line written and presented keeps the laws. -/
theorem writeAndPresent_keepsMirrors : KeepsMirrors s (s.writeAndPresent x r) :=
  ⟨writeAndPresent_mirrorLaw made, writeAndPresent_mirrorFollowsLaw made⟩

end

theorem configurePlain_keepsMirrors (x : LineSettings) (s : State) : KeepsMirrors s (s.configurePlain x) :=
  writeAndPresent_keepsMirrors (r := (s.line x.line).configured x .plain (s.line x.line).level)
    fun _ _ _ mirror => LineFunction.noConfusion mirror

/-- R75, check 4: what the mirror parameters name. -/
theorem mirrorParams_some {x : LineSettings} {ps : List Byte} {source : Line} {invert : Bool}
    (params : mirrorParams x ps = some (source, invert)) : x.direction = .output ∧ source ≠ x.line := by
  unfold mirrorParams at params
  split at params
  · rename_i direction _ _
    split at params
    · cases params
    · rename_i other
      cases params
      exact ⟨direction, other⟩
  · cases params

/-- R89: a mirror made of a source that is IN is at its filtered level, and of one that is OUT faulted. -/
theorem configureMirrorLine_keepsMirrors (caller : Host) {x : LineSettings} {source : Line} (invert : Bool) (s : State)
    (out : x.direction = .output) (other : source ≠ x.line) :
    KeepsMirrors s (s.configureMirrorLine caller x source invert) := by
  rw [configureMirrorLine_eq]
  have told := raiseOutSource_recordsOnly caller x.line source s
  refine told.mirrorsKept.keeps.trans (writeAndPresent_keepsMirrors fun src inv fault mirror => ?_)
  have lines : ∀ i, (s.raiseOutSource caller x.line source).line i = s.line i := fun i => line_congr (by rw [told]) i
  have inputs := told.linesOnly.input
  cases mirror
  refine ⟨other, out, fun clear => ?_⟩
  have input : (s.line source).direction = .input := by
    cases direction : (s.line source).direction with
    | input => rfl
    | output => simp [direction] at clear
  rw [lines, inputs]
  refine ⟨input, ?_⟩
  simp [State.mirrorRecord, LineRec.configured, input]

/-! ### Reports and sample ticks -/

section

variable {s s' : State}

theorem tested_settings (v : Level) (r : LineRec) : (r.tested v).function = r.function
    ∧ (r.tested v).direction = r.direction ∧ (r.tested v).level = r.level := ⟨rfl, rfl, rfl⟩

/-- R90: a report leaves the functions and directions of the lines. -/
theorem takeReport_settings (s : State) (x : Line) (v : Level) (i : Line) :
    ((s.takeReport x v).line i).function = (s.line i).function
      ∧ ((s.takeReport x v).line i).direction = (s.line i).direction
      ∧ ((s.takeReport x v).line i).level =
        if s.followsSource x i then ((s.line i).following v).level else (s.line i).level := by
  have tested : ((s.takeReport x v).line i).function = ((s.followMirrors x v).line i).function
      ∧ ((s.takeReport x v).line i).direction = ((s.followMirrors x v).line i).direction
      ∧ ((s.takeReport x v).line i).level = ((s.followMirrors x v).line i).level := by
    rw [takeReport_eq, line_driveTest_tested]
    split
    · exact tested_settings v _
    · exact ⟨rfl, rfl, rfl⟩
  rw [tested.1, tested.2.1, tested.2.2, line_followMirrors]
  cases s.followsSource x i <;> exact ⟨rfl, rfl, rfl⟩

/-- R90, R93: the oldest report of line `x` is taken from those in flight, and the mirrors of `x` follow it: the last one
leaves them at the filtered level. -/
theorem takeReport_keepsMirrors {x : Line} {v : Level} (lines : s'.lines = s.lines) (inputs : s'.inputs = s.inputs)
    (taken : inFlight x s.reports = v :: inFlight x s'.reports)
    (others : ∀ i, i ≠ x → inFlight i s'.reports = inFlight i s.reports) : KeepsMirrors s (s'.takeReport x v) := by
  have line : ∀ i, s'.line i = s.line i := line_congr lines
  have frame := takeReport_linesOnly x v s'
  have input : ∀ i, (s'.takeReport x v).input i = s.input i := fun i =>
    (frame.input i).trans (by rw [State.input, State.input, inputs])
  refine ⟨fun law => law.congr (fun i => ?_) fun i => ?_,
    fun ⟨newest, level⟩ => ⟨fun i w last => ?_, fun i source invert mirror none => ?_⟩⟩
  · rw [(takeReport_settings s' x v i).1, line]
  · rw [(takeReport_settings s' x v i).2.1, line]
  · rw [frame.reports] at last
    rw [input]
    refine newest i w ?_
    by_cases same : i = x
    · subst same
      rw [taken]
      exact List.mem_getLast?_cons last
    · rwa [← others i same]
  · obtain ⟨function, -, level'⟩ := takeReport_settings s' x v i
    have mirror' : (s'.line i).function = .mirror source invert false := function.symm.trans mirror
    rw [frame.reports] at none
    rw [level', input]
    by_cases same : source = x
    · subst same
      have filtered : v = (s.input source).filtered := newest source v (by rw [taken, none]; rfl)
      rw [if_pos (followsSource_iff.mpr ⟨invert, mirror'⟩), filtered]
      simp only [LineRec.following, mirror']
    · have apart : s'.followsSource x i = false := by
        by_contra follows
        rw [Bool.not_eq_false] at follows
        exact same (followsSource_unique (followsSource_iff.mpr ⟨invert, mirror'⟩) follows)
      rw [apart, line]
      exact level i source invert ((line i) ▸ mirror') ((others source same) ▸ none)

theorem changeFiltered_frame (i : Line) (v : Level) (s : State) : s.changeFiltered i v = { s with
    inputs := updateLine s.inputs i fun r => { r with filtered := v }, reports := handOn ⟨i, v⟩ s.reports
    queues := (s.changeFiltered i v).queues } := by
  have edges := raiseEdges_recordsOnly i v .filtered
    { s with inputs := updateLine s.inputs i fun r => { r with filtered := v } }
  unfold State.changeFiltered
  generalize State.raiseEdges i v .filtered _ = t at edges
  rw [edges]

/-- R128, R93: a filtered level that changes is reported, so that its mirrors are still to follow it. -/
theorem changeFiltered_keepsMirrors (x : Line) (v : Level) (s : State) : KeepsMirrors s (s.changeFiltered x v) := by
  have frame := changeFiltered_frame x v s
  have line : ∀ i, (s.changeFiltered x v).line i = s.line i := line_congr (by rw [frame])
  have input : ∀ i, (s.changeFiltered x v).input i = if i = x then { s.input x with filtered := v } else s.input i :=
    fun i => by
      rw [frame]
      exact input_updateLine s x i _
  have reports : ∀ i, inFlight i (s.changeFiltered x v).reports =
      inFlight i s.reports ++ if x = i then [v] else [] := fun i => by
    rw [frame]
    exact inFlight_handOn i ⟨x, v⟩ s.reports
  refine ⟨fun law => law.congr (fun i => by rw [line]) fun i => by rw [line],
    fun ⟨newest, level⟩ => ⟨fun i w last => ?_, fun i source invert mirror none => ?_⟩⟩
  · rw [reports] at last
    rw [input]
    by_cases same : i = x
    · subst same
      simpa [eq_comm] using last
    · rw [if_neg (Ne.symm same), List.append_nil] at last
      rw [if_neg same]
      exact newest i w last
  · rw [reports] at none
    obtain ⟨none, other⟩ := List.append_eq_nil_iff.mp none
    have other : source ≠ x := fun same => by simp [same] at other
    rw [line, input, if_neg other]
    exact level i source invert ((line i) ▸ mirror) none

theorem sampleLine_keepsMirrors (s : State) (i : Line) : KeepsMirrors s (s.sampleLine i) := by
  have sampled : MirrorsKept s { s with inputs := updateLine s.inputs i InputRec.sample } :=
    MirrorsStay.kept ⟨fun _ => rfl, fun j => by
      rw [input_updateLine]
      split
      · rename_i same
        rw [same]
        rfl
      · rfl, fun _ => .refl _⟩ fun _ => rfl
  unfold State.sampleLine
  dsimp only
  split
  · exact sampled.keeps.trans (changeFiltered_keepsMirrors i _ _)
  · exact sampled.keeps

/-- R127, R128: a sample tick, line by line. -/
theorem sampleAll_keepsMirrors (s : State) : KeepsMirrors s s.sampleAll := by
  have sampled : KeepsMirrors s.opened (allLines.foldl State.sampleLine s.opened) :=
    foldl_rel KeepsMirrors.refl .trans sampleLine_keepsMirrors allLines s.opened
  have closed := closed_mirrorsKept s fun t => allLines.foldl State.sampleLine t
  exact ((opened_mirrorsKept s).keeps.trans sampled).trans closed.keeps

end

/-! ### Owners -/

/-- The body of a command keeps the laws of the mirrors. -/
def BodyKeepsMirrors (body : List Byte → State → State × Reply) : Prop := ∀ ps s, KeepsMirrors s (body ps s).1

theorem BodyKeepsMirrors.of_kept {body : List Byte → State → State × Reply} (h : ∀ ps s, MirrorsKept s (body ps s).1) :
    BodyKeepsMirrors body := fun ps s => (h ps s).keeps

theorem ownerTakes_keepsMirrors {p : Host} {cmd : Cmd} {applies : List Byte → Bool}
    {body : List Byte → State → State × Reply} (h : BodyKeepsMirrors body) (s : State) :
    KeepsMirrors s (s.ownerTakes p cmd applies body) := by
  unfold State.ownerTakes
  split
  · exact (h _ s).trans (MirrorsKept.of_same rfl).keeps
  · exact .refl s

theorem leaseControllerTakes_keepsMirrors {p : Host} {cmd : Cmd} {body : List Byte → State → State × Reply}
    (h : BodyKeepsMirrors body) (s : State) : KeepsMirrors s (s.leaseControllerTakes p cmd body) := by
  unfold State.leaseControllerTakes
  split
  · refine ownerTakes_keepsMirrors (fun ps t => ?_) s
    have served : MirrorsKept t { t with lastServed := p } := .of_same rfl
    exact served.keeps.trans (h ps _)
  · exact .refl s

theorem asOneEvent_keepsMirrors {f : State → State} (hf : ∀ s, KeepsMirrors s (f s)) (s : State) :
    KeepsMirrors s (State.asOneEvent f s) :=
  ((opened_mirrorsKept s).keeps.trans (hf s.opened)).trans (closed_mirrorsKept s f).keeps

theorem takes_keepsMirrors {f : State → State} (hf : ∀ s, KeepsMirrors s (f s)) {s t : State}
    (h : s.takes f = .next t) : KeepsMirrors s t :=
  ⟨takes_keep (P := MirrorLaw) (fun u => (hf u).1) h, takes_keep (P := MirrorFollowsLaw) (fun u => (hf u).2) h⟩

theorem portEvent_keepsMirrors {p : Host} {f : PortState → PortState} {s t : State} (h : s.portEvent p f = .next t) :
    KeepsMirrors s t :=
  takes_keepsMirrors (f := fun u => u.updatePort p fun q => f q.takeTimeout)
    (fun _ => (MirrorsKept.of_same rfl).keeps) h

/-! ### The commands on leases and claims -/

section

variable (caller : Host) (ps : List Byte) (s : State)

theorem claimBody_mirrorsKept : MirrorsKept s (State.claimBody caller ps s).1 := by
  unfold State.claimBody
  split
  · exact .refl s
  · split
    · exact grant_mirrorsKept s _ _ _
    · exact .of_same rfl
    · exact .refl s

theorem cancelBody_mirrorsKept : MirrorsKept s (State.cancelBody caller ps s).1 := by
  unfold State.cancelBody
  split
  · exact .refl s
  · split
    · exact (removeClaims_mirrorsKept s _ none).trans (scan_mirrorsKept _)
    · exact .refl s

theorem releaseBody_mirrorsKept : MirrorsKept s (State.releaseBody caller ps s).1 := by
  unfold State.releaseBody
  split
  · exact .refl s
  · exact endLeaseAndScan_mirrorsKept s _ _

theorem renewBody_mirrorsKept : MirrorsKept s (State.renewBody caller ps s).1 := by
  unfold State.renewBody
  split <;> exact .of_same rfl

theorem queryLeaseBody_mirrorsKept : MirrorsKept s (State.queryLeaseBody ps s).1 := by
  unfold State.queryLeaseBody
  split
  · exact .refl s
  · split <;> exact .refl s

theorem offerBody_mirrorsKept : MirrorsKept s (State.offerBody caller ps s).1 := by
  unfold State.offerBody
  split <;> exact .of_same rfl

theorem acceptBody_mirrorsKept : MirrorsKept s (State.acceptBody caller ps s).1 := by
  unfold State.acceptBody
  split
  · exact .refl s
  · split
    · exact .refl s
    · exact ((transfer_mirrorsKept s _ _).trans (removeClaims_mirrorsKept _ _ _)).trans (scanIf_mirrorsKept _ _)

theorem declineBody_mirrorsKept : MirrorsKept s (State.declineBody caller ps s).1 := by
  unfold State.declineBody
  split <;> exact .of_same rfl

theorem revokeBody_mirrorsKept : MirrorsKept s (State.revokeBody caller ps s).1 := by
  unfold State.revokeBody
  split
  · exact .refl s
  · split
    · exact .refl s
    · exact endLeaseAndScan_mirrorsKept s _ _

theorem reserveBody_mirrorsKept : MirrorsKept s (State.reserveBody caller ps s).1 := by
  unfold State.reserveBody
  split
  · exact .refl s
  · split
    · exact .refl s
    · split
      · exact .refl s
      · rename_i a _
        have replaced : MirrorsKept s (s.reserveLines (paramMask ps 0) a) := .of_same rfl
        exact (replaced.trans (removeClaims_mirrorsKept _ _ _)).trans (scanIf_mirrorsKept _ _)

theorem clearHostBody_mirrorsKept : MirrorsKept s (State.clearHostBody caller ps s).1 := by
  unfold State.clearHostBody
  split
  · exact .refl s
  · split
    · exact .refl s
    · exact teardown_mirrorsKept s _ _

/-! ### The commands on lines, inputs and event queues -/

/-- R73: SET_LEVEL is refused where a named line is not PLAIN. -/
theorem setLevelCheck_plain {s : State} {lease : Nat} {m : LineMask} (passed : s.setLevelCheck caller lease m = none) :
    ∀ i ∈ maskLines m, (s.line i).function = .plain := by
  unfold State.setLevelCheck at passed
  split at passed
  · cases passed
  · split at passed
    · cases passed
    · split at passed
      · rename_i plain
        simpa using plain
      · cases passed

/-- R73, R74: SET_LEVEL writes the output level of no mirror. -/
theorem setLevelBody_mirrorsKept : MirrorsKept s (State.setLevelBody caller ps s).1 := by
  unfold State.setLevelBody
  split
  · exact .refl s
  · rename_i passed
    have plain := setLevelCheck_plain caller passed
    have written : MirrorsKept s (s.writeLevels (paramMask ps 1) (paramMask ps 4)) :=
      (writeLevels_linesOnly _ _ s).controllerOnly.mirrorsKept fun i => by
        rw [line_writeLevels]
        split
        · rename_i named
          have plain := plain i ((mem_maskLines _ i).mpr named)
          exact ⟨.of_other fun _ _ _ => by simp [LineRec.after, plain], rfl⟩
        · exact .refl _
    exact written

theorem configureBody_keepsMirrors : KeepsMirrors s (State.configureBody caller ps s).1 := by
  unfold State.configureBody
  split
  · exact .refl s
  · exact configurePlain_keepsMirrors _ s

theorem configureMirrorBody_keepsMirrors : KeepsMirrors s (State.configureMirrorBody caller ps s).1 := by
  unfold State.configureMirrorBody
  split
  · exact .refl s
  · split
    · exact .refl s
    · rename_i params
      obtain ⟨out, other⟩ := mirrorParams_some params
      exact configureMirrorLine_keepsMirrors caller _ s out other

/-- R95: a line that starts a pulse is no mirror. -/
theorem pulseBody_mirrorsKept : MirrorsKept s (State.pulseBody caller ps s).1 := by
  unfold State.pulseBody
  split
  · exact .refl s
  · exact driveLine_mirrorsKept s _ (.of_other fun _ _ _ => LineFunction.noConfusion) rfl

theorem queryLineBody_mirrorsKept : MirrorsKept s (State.queryLineBody ps s).1 := by
  unfold State.queryLineBody
  split <;> exact .refl s

theorem subscribeBody_mirrorsKept : MirrorsKept s (State.subscribeBody caller ps s).1 := by
  rw [subscribeBody_frame]
  exact .of_same rfl

theorem unsubscribeBody_mirrorsKept : MirrorsKept s (State.unsubscribeBody caller ps s).1 := by
  rw [unsubscribeBody_frame]
  exact .of_same rfl

theorem attentionBody_mirrorsKept : MirrorsKept s (State.attentionBody caller ps s).1 := by
  unfold State.attentionBody
  split <;> exact .of_same rfl

end

/-! ### Ticks, arrivals and reset -/

section

variable (s : State)

theorem tickWaits_mirrorsKept (o : Owner) : MirrorsKept s (s.tickWaits o) := .of_same rfl

/-- R96, R99, R100: the timers count, and the drive tests set mismatch flags. -/
theorem tick_mirrorsKept (order : List Line) : MirrorsKept s (s.tick order) := by
  unfold State.tick
  split
  · exact .refl s
  · have counted : MirrorsKept s (s.countTick.tickWaits .lineMatrix) := .of_records rfl rfl fun i => by
      rw [line_countTick]
      exact ⟨mirrorStays_tick _, rfl⟩
    exact counted.trans (.foldl (fun t i => driveTest_mirrorsKept t i _) _ _)

/-- R97: a line whose pulse ends is PLAIN. -/
theorem completePulse_mirrorsKept (x : Line) (revert : Level) : MirrorsKept s (s.completePulse x revert) :=
  have driven : MirrorsKept s (s.driveLine x ((s.line x).reverted revert)) :=
    driveLine_mirrorsKept s x (.of_other fun _ _ _ => LineFunction.noConfusion) rfl
  driven.trans (raiseHolder_recordsOnly _ _ _).mirrorsKept

/-- R125: an arrival reaches no filtered level. -/
theorem takeArrival_mirrorsKept (x : Line) (v : Level) (rest : List (List LevelChange)) :
    MirrorsKept s (State.takeArrival x v { s with arrivals := rest }) := by
  have filtered : ∀ i, (State.input { s with inputs := updateLine s.inputs x fun r => { r with seen := v } } i).filtered
      = (s.input i).filtered := fun i => by
    rw [input_updateLine]
    split
    · rename_i same
      rw [same]
    · rfl
  rw [takeArrival_frame]
  exact MirrorsStay.kept ⟨fun _ => rfl, filtered, fun _ => .refl _⟩ fun _ => rfl

/-- R67: an evaluation of the lines reaches their raw levels alone. -/
theorem leaveReset_mirrorsKept (x : Straps) : MirrorsKept s (s.leaveReset x) :=
  .of_records (by rw [leaveReset_eq]) (by rw [leaveReset_eq]) fun i => by
    rw [line_leaveReset]
    exact ⟨.of_same rfl rfl rfl, rfl⟩

/-- R27, R61: there is no mirror after a device reset. -/
theorem enterReset_keepsMirrors (n : Nat) : KeepsMirrors s { s.enterReset with freeCount := n } :=
  ⟨fun _ => mirrorLaw_reset, fun _ => mirrorFollowsLaw_reset⟩

end

/-! ### Every command -/

/-- R87, R88, R90, R93: every command and event keeps the laws of the mirrors. -/
theorem exec_keepsMirrors {i : Instr} {s t : State} (h : exec i s = .next t) : KeepsMirrors s t := by
  have kept : ∀ {f : State → State}, (∀ u, MirrorsKept u (f u)) → s.takes f = .next t → KeepsMirrors s t :=
    fun hf h => takes_keepsMirrors (fun u => (hf u).keeps) h
  have controller : ∀ {p : Host} {cmd : Cmd} {body : List Byte → State → State × Reply},
      (∀ ps u, MirrorsKept u (body ps u).1) → ∀ u : State, KeepsMirrors u (u.leaseControllerTakes p cmd body) :=
    fun hb => leaseControllerTakes_keepsMirrors (.of_kept hb)
  have owner : ∀ {p : Host} {cmd : Cmd} {applies : List Byte → Bool} {body : List Byte → State → State × Reply},
      (∀ ps u, MirrorsKept u (body ps u).1) → ∀ u : State, KeepsMirrors u (u.ownerTakes p cmd applies body) :=
    fun hb => ownerTakes_keepsMirrors (.of_kept hb)
  cases i with
  | deviceReset cause =>
    obtain ⟨n, rfl⟩ | ⟨n, rfl⟩ := deviceReset_cases h
    · exact enterReset_keepsMirrors s n
    · exact (MirrorsKept.of_same rfl).keeps
  | deviceResetEnd x =>
    cases h
    split
    · exact (leaveReset_mirrorsKept s x).keeps
    · exact .refl s
  | millisecondTick order => exact kept (fun u => tick_mirrorsKept u order) h
  | settleExpiry i =>
    simp only [exec, execSettleExpiry] at h
    refine kept (fun u => ?_) h
    split
    · exact tick_mirrorsKept u [i]
    · exact .refl u
  | renewExpiry id =>
    simp only [exec, execRenewExpiry] at h
    refine takes_keepsMirrors (fun u => ?_) h
    split
    · exact asOneEvent_keepsMirrors (fun v => (endLeaseAndScan_mirrorsKept v _ .expiry).keeps) u
    · exact .refl u
  | waitLapse ticket =>
    simp only [exec, execWaitLapse] at h
    refine kept (fun u => ?_) h
    split
    · exact (removeClaims_mirrorsKept u _ _).trans (scan_mirrorsKept _)
    · exact .refl u
  | offerLapse id =>
    simp only [exec, execOfferLapse] at h
    refine kept (fun u => ?_) h
    split
    · exact .of_same rfl
    · exact .refl u
  | pulseCompletion i =>
    simp only [exec, execPulseCompletion] at h
    refine takes_keepsMirrors (fun u => ?_) h
    split
    · exact asOneEvent_keepsMirrors (fun v => (completePulse_mirrorsKept v i _).keeps) u
    all_goals exact .refl u
  | busTimeout p | busError p c | startCondition p | stopCondition p | addressByte p b | commandFrame p bs scl
  | responseRead p as scl => exact portEvent_keepsMirrors h
  | claim p => exact takes_keepsMirrors (controller (claimBody_mirrorsKept p)) h
  | cancelClaim p => exact takes_keepsMirrors (controller (cancelBody_mirrorsKept p)) h
  | release p => exact takes_keepsMirrors (asOneEvent_keepsMirrors (controller (releaseBody_mirrorsKept p))) h
  | renew p => exact takes_keepsMirrors (controller (renewBody_mirrorsKept p)) h
  | renewAll p => exact takes_keepsMirrors (controller fun _ _ => .of_same rfl) h
  | queryLease p => exact takes_keepsMirrors (controller queryLeaseBody_mirrorsKept) h
  | offer p => exact takes_keepsMirrors (controller (offerBody_mirrorsKept p)) h
  | accept p => exact takes_keepsMirrors (controller (acceptBody_mirrorsKept p)) h
  | decline p => exact takes_keepsMirrors (controller (declineBody_mirrorsKept p)) h
  | revoke p => exact takes_keepsMirrors (asOneEvent_keepsMirrors (controller (revokeBody_mirrorsKept p))) h
  | reserve p => exact takes_keepsMirrors (controller (reserveBody_mirrorsKept p)) h
  | detach p =>
    exact takes_keepsMirrors (asOneEvent_keepsMirrors (controller fun _ u => teardown_mirrorsKept u p none)) h
  | clearHost p => exact takes_keepsMirrors (asOneEvent_keepsMirrors (controller (clearHostBody_mirrorsKept p))) h
  | setLevel p => exact takes_keepsMirrors (asOneEvent_keepsMirrors (owner (setLevelBody_mirrorsKept p))) h
  | configure p =>
    exact takes_keepsMirrors (asOneEvent_keepsMirrors (ownerTakes_keepsMirrors (configureBody_keepsMirrors p))) h
  | configureMirror p =>
    exact takes_keepsMirrors (asOneEvent_keepsMirrors (ownerTakes_keepsMirrors (configureMirrorBody_keepsMirrors p))) h
  | pulse p => exact takes_keepsMirrors (asOneEvent_keepsMirrors (owner (pulseBody_mirrorsKept p))) h
  | readLines p => exact takes_keepsMirrors (owner fun _ u => .refl u) h
  | queryLine p => exact takes_keepsMirrors (owner queryLineBody_mirrorsKept) h
  | externalStateChange i x =>
    cases h
    split
    · exact (MirrorsKept.of_same rfl).keeps
    · have board : MirrorsKept s (s.setExternal i x) := .of_same rfl
      exact board.keeps.trans
        (asOneEvent_keepsMirrors (fun v => (writeLine_mirrorsKept v i (.refl _) rfl).keeps) (s.setExternal i x))
  | filteredReport i =>
    simp only [exec, execFilteredReport] at h
    refine takes_keepsMirrors (fun u => ?_) h
    split
    · rename_i v rest taken
      obtain ⟨oldest, others⟩ := inFlight_takeChange taken
      have begun : ∀ j, inFlight j (State.opened { u with reports := rest }).reports = inFlight j rest := fun j =>
        inFlight_congr j (by simp [State.opened])
      have followed : KeepsMirrors u ((State.opened { u with reports := rest }).takeReport i v) :=
        takeReport_keepsMirrors rfl rfl (by rw [begun, oldest]) fun j ne => by rw [begun, others j ne]
      have closed := closed_mirrorsKept { u with reports := rest } (State.takeReport i v)
      exact followed.trans closed.keeps
    · exact .refl u
  | arrival i =>
    simp only [exec, execArrival] at h
    refine kept (fun u => ?_) h
    split
    · exact takeArrival_mirrorsKept u i _ _
    · exact .refl u
  | sampleTick =>
    simp only [exec, execSampleTick] at h
    refine takes_keepsMirrors (fun u => ?_) h
    split
    · exact .refl u
    · exact (sampleAll_keepsMirrors u).trans (tickWaits_mirrorsKept _ _).keeps
  | subscribe p =>
    simp only [exec, execSubscribe] at h
    refine takes_keepsMirrors (fun u => ?_) h
    split
    · exact owner (subscribeBody_mirrorsKept p) u
    · exact .refl u
  | unsubscribe p => exact takes_keepsMirrors (owner (unsubscribeBody_mirrorsKept p)) h
  | poll p => exact takes_keepsMirrors (owner fun _ _ => .of_same rfl) h
  | attention p => exact takes_keepsMirrors (owner (attentionBody_mirrorsKept p)) h

/-- Settles O11: every command keeps both laws, and the queue of commands has no part in them. -/
theorem stepKeepsMirrors : Obligations.StepKeepsMirrors := by
  intro s t h
  unfold step at h
  split at h
  · cases h
    exact KeepsMirrors.refl s
  · rename_i rest _
    have begun : MirrorsKept s { s with pending := rest } := .of_same rfl
    exact begun.keeps.trans (exec_keepsMirrors h)

end Sys2Proof.Machine
end

section
/-! PROOF. Supervision (R105, R106, R109, R116, R156): what stands of the supervisor port, the bus address and the
allowed-host sets at every command and event but their own, and the check of the supervisor's commands. -/

namespace Sys2Proof.Machine

/-! ### What stands -/

/-- What a device reset, its end and a RESERVE set: the supervisor port, the bus address and the allowed-host sets. -/
structure Supervision where
  supervisor : Option Host
  busAddress : BitVec 7
  allowed    : Vector HostSet 24

def State.supervision (s : State) : Supervision := ⟨s.supervisor, s.busAddress, s.allowed⟩

/-- R105, R109, R156: the supervisor port, the bus address and every allowed-host set stand. -/
def SameSupervision (s t : State) : Prop := t.supervision = s.supervision

section

variable {s t u : State}

theorem sameSupervision_iff : SameSupervision s t ↔
    t.supervisor = s.supervisor ∧ t.busAddress = s.busAddress ∧ t.allowed = s.allowed := by
  simp only [SameSupervision, State.supervision, Supervision.mk.injEq]

theorem allowed_of_tables (h : t.tables = s.tables) : t.allowed = s.allowed := congrArg Tables.allowed h

theorem SameSupervision.refl (s : State) : SameSupervision s s := rfl

theorem SameSupervision.trans (h : SameSupervision s t) (k : SameSupervision t u) : SameSupervision s u := Eq.trans k h

theorem SameSupervision.foldl {α : Type} {g : State → α → State} (step : ∀ s x, SameSupervision s (g s x)) (xs : List α)
    (s : State) : SameSupervision s (xs.foldl g s) :=
  foldl_rel SameSupervision.refl .trans step xs s

theorem ControllerOnly.sameSupervision (h : ControllerOnly s t) : SameSupervision s t := by
  unfold ControllerOnly at h
  rw [h]
  rfl

theorem LinesOnly.sameSupervision (h : LinesOnly s t) : SameSupervision s t := h.controllerOnly.sameSupervision

theorem RecordsOnly.sameSupervision (h : RecordsOnly s t) : SameSupervision s t := h.linesOnly.sameSupervision

end

/-! ### Events -/

/-- R116: a teardown reaches the subscriptions besides what a lease controller event may reach. -/
theorem teardown_sameSupervision (n : Host) (supervisor : Option Host) (s : State) :
    SameSupervision s (s.teardown n supervisor) :=
  have unsubscribed : SameSupervision s (s.unsubscribeAll n) := rfl
  unsubscribed.trans (teardown_frame n supervisor s).sameSupervision

theorem tickWaits_sameSupervision (o : Owner) (s : State) : SameSupervision s (s.tickWaits o) := rfl

theorem tick_sameSupervision (order : List Line) (s : State) : SameSupervision s (s.tick order) := by
  unfold State.tick
  split
  · exact .refl s
  · have counted : SameSupervision s s.countTick := rfl
    exact (counted.trans (tickWaits_sameSupervision _ _)).trans
      (LinesOnly.foldl (fun t i => driveTest_linesOnly i _ t) _ _).sameSupervision

theorem sampleLine_sameSupervision (s : State) (i : Line) : SameSupervision s (s.sampleLine i) :=
  have standing := (sampleLine_beside s i).standing
  sameSupervision_iff.mpr ⟨congrArg Standing.supervisor standing, congrArg Standing.busAddress standing,
    allowed_of_tables (tables_sampleLine s i)⟩

theorem takeArrival_sameSupervision (i : Line) (v : Level) (rest : List (List LevelChange)) (s : State) :
    SameSupervision s (State.takeArrival i v { s with arrivals := rest }) := by
  have taken : SameSupervision s { s with
      arrivals := rest, inputs := updateLine s.inputs i fun r => { r with seen := v }
      startUp := s.startUp.filter fun j => j != i } := rfl
  exact taken.trans (raiseEdges_recordsOnly i v .raw _).sameSupervision

theorem asOneEvent_sameSupervision {f : State → State} (hf : ∀ s, SameSupervision s (f s)) (s : State) :
    SameSupervision s (State.asOneEvent f s) :=
  have steps : SameSupervision s.opened (f s.opened) := hf s.opened
  steps

theorem sampleAll_sameSupervision (s : State) : SameSupervision s s.sampleAll :=
  asOneEvent_sameSupervision (fun t => .foldl sampleLine_sameSupervision allLines t) s

theorem takes_sameSupervision {f : State → State} (hf : ∀ s, SameSupervision s (f s)) {s t : State}
    (h : s.takes f = .next t) : SameSupervision s t :=
  takes_keep (P := SameSupervision s) (fun u same => same.trans (hf u)) h (.refl s)

theorem portEvent_sameSupervision {p : Host} {f : PortState → PortState} {s t : State} (h : s.portEvent p f = .next t) :
    SameSupervision s t :=
  takes_sameSupervision (f := fun u => u.updatePort p fun q => f q.takeTimeout) (fun u => .refl u) h

/-! ### Owners -/

/-- The body of a command leaves the supervisor port, the bus address and the allowed-host sets. -/
def BodyKeepsSupervision (body : List Byte → State → State × Reply) : Prop := ∀ ps s, SameSupervision s (body ps s).1

theorem BodyKeepsSupervision.of_linesOnly {body : List Byte → State → State × Reply}
    (h : ∀ ps s, LinesOnly s (body ps s).1) : BodyKeepsSupervision body := fun ps s => (h ps s).sameSupervision

theorem ownerTakes_sameSupervision {p : Host} {cmd : Cmd} {applies : List Byte → Bool}
    {body : List Byte → State → State × Reply} (h : BodyKeepsSupervision body) (s : State) :
    SameSupervision s (s.ownerTakes p cmd applies body) := by
  unfold State.ownerTakes
  split
  · exact h _ s
  · exact .refl s

theorem leaseControllerTakes_sameSupervision {p : Host} {cmd : Cmd} {body : List Byte → State → State × Reply}
    (h : BodyKeepsSupervision body) (s : State) : SameSupervision s (s.leaseControllerTakes p cmd body) := by
  unfold State.leaseControllerTakes
  split
  · exact ownerTakes_sameSupervision (fun ps t => h ps { t with lastServed := p }) s
  · exact .refl s

/-! ### Bodies -/

section

variable (caller : Host)

theorem claimBody_keepsSupervision : BodyKeepsSupervision (State.claimBody caller) := by
  intro ps s
  unfold State.claimBody
  split
  · exact .refl s
  · split
    · exact (grant_controllerOnly _ _ _ s).sameSupervision
    · exact .refl s
    · exact .refl s

theorem cancelBody_keepsSupervision : BodyKeepsSupervision (State.cancelBody caller) := by
  intro ps s
  unfold State.cancelBody
  split
  · exact .refl s
  · split
    · exact ((removeClaims_controllerOnly _ none s).trans (scan_controllerOnly _)).sameSupervision
    · exact .refl s

theorem releaseBody_keepsSupervision : BodyKeepsSupervision (State.releaseBody caller) := by
  intro ps s
  unfold State.releaseBody
  split
  · exact .refl s
  · exact (endLeaseAndScan_controllerOnly _ _ s).sameSupervision

theorem renewBody_keepsSupervision : BodyKeepsSupervision (State.renewBody caller) := by
  intro ps s
  unfold State.renewBody
  split <;> exact .refl s

theorem queryLeaseBody_keepsSupervision : BodyKeepsSupervision State.queryLeaseBody := by
  intro ps s
  unfold State.queryLeaseBody
  split
  · exact .refl s
  · split <;> exact .refl s

theorem offerBody_keepsSupervision : BodyKeepsSupervision (State.offerBody caller) := by
  intro ps s
  unfold State.offerBody
  split <;> exact .refl s

theorem acceptBody_keepsSupervision : BodyKeepsSupervision (State.acceptBody caller) := by
  intro ps s
  unfold State.acceptBody
  split
  · exact .refl s
  · split
    · exact .refl s
    · exact (((transfer_controllerOnly _ caller s).trans (removeClaims_controllerOnly _ _ _)).trans
        (scanIf_controllerOnly _ _)).sameSupervision

theorem declineBody_keepsSupervision : BodyKeepsSupervision (State.declineBody caller) := by
  intro ps s
  unfold State.declineBody
  split <;> exact .refl s

theorem revokeBody_keepsSupervision : BodyKeepsSupervision (State.revokeBody caller) := by
  intro ps s
  unfold State.revokeBody
  split
  · exact .refl s
  · split
    · exact .refl s
    · exact (endLeaseAndScan_controllerOnly _ _ s).sameSupervision

theorem clearHostBody_keepsSupervision : BodyKeepsSupervision (State.clearHostBody caller) := by
  intro ps s
  unfold State.clearHostBody
  split
  · exact .refl s
  · split
    · exact .refl s
    · exact teardown_sameSupervision _ _ s

theorem subscribeBody_keepsSupervision : BodyKeepsSupervision (State.subscribeBody caller) := by
  intro ps s
  rw [subscribeBody_frame]
  rfl

theorem unsubscribeBody_keepsSupervision : BodyKeepsSupervision (State.unsubscribeBody caller) := by
  intro ps s
  rw [unsubscribeBody_frame]
  rfl

end

/-! ### Every command -/

/-- R105, R109, R156: every command and event but a device reset, its end and a RESERVE leaves all three. -/
theorem exec_sameSupervision {i : Instr} {s t : State} (h : exec i s = .next t) (noReset : ∀ c, i ≠ .deviceReset c)
    (noEnd : ∀ x, i ≠ .deviceResetEnd x) (noReserve : ∀ p, i ≠ .reserve p) : SameSupervision s t := by
  cases i with
  | deviceReset cause => exact absurd rfl (noReset cause)
  | deviceResetEnd x => exact absurd rfl (noEnd x)
  | reserve p => exact absurd rfl (noReserve p)
  | claim p => exact takes_sameSupervision (leaseControllerTakes_sameSupervision (claimBody_keepsSupervision p)) h
  | cancelClaim p =>
    exact takes_sameSupervision (leaseControllerTakes_sameSupervision (cancelBody_keepsSupervision p)) h
  | release p =>
    exact takes_sameSupervision (asOneEvent_sameSupervision
      (leaseControllerTakes_sameSupervision (releaseBody_keepsSupervision p))) h
  | renew p => exact takes_sameSupervision (leaseControllerTakes_sameSupervision (renewBody_keepsSupervision p)) h
  | renewAll p => exact takes_sameSupervision (leaseControllerTakes_sameSupervision (fun _ s => .refl s)) h
  | queryLease p => exact takes_sameSupervision (leaseControllerTakes_sameSupervision queryLeaseBody_keepsSupervision) h
  | offer p => exact takes_sameSupervision (leaseControllerTakes_sameSupervision (offerBody_keepsSupervision p)) h
  | accept p => exact takes_sameSupervision (leaseControllerTakes_sameSupervision (acceptBody_keepsSupervision p)) h
  | decline p => exact takes_sameSupervision (leaseControllerTakes_sameSupervision (declineBody_keepsSupervision p)) h
  | revoke p =>
    exact takes_sameSupervision (asOneEvent_sameSupervision
      (leaseControllerTakes_sameSupervision (revokeBody_keepsSupervision p))) h
  | detach p =>
    exact takes_sameSupervision (asOneEvent_sameSupervision
      (leaseControllerTakes_sameSupervision (fun _ s => teardown_sameSupervision p none s))) h
  | clearHost p =>
    exact takes_sameSupervision (asOneEvent_sameSupervision
      (leaseControllerTakes_sameSupervision (clearHostBody_keepsSupervision p))) h
  | setLevel p =>
    exact takes_sameSupervision (asOneEvent_sameSupervision
      (ownerTakes_sameSupervision (.of_linesOnly (setLevelBody_linesOnly p)))) h
  | configure p =>
    exact takes_sameSupervision (asOneEvent_sameSupervision
      (ownerTakes_sameSupervision (.of_linesOnly (configureBody_linesOnly p)))) h
  | configureMirror p =>
    exact takes_sameSupervision (asOneEvent_sameSupervision
      (ownerTakes_sameSupervision (.of_linesOnly (configureMirrorBody_linesOnly p)))) h
  | pulse p =>
    exact takes_sameSupervision (asOneEvent_sameSupervision
      (ownerTakes_sameSupervision (.of_linesOnly (pulseBody_linesOnly p)))) h
  | readLines p => exact takes_sameSupervision (ownerTakes_sameSupervision (fun _ s => .refl s)) h
  | queryLine p => exact takes_sameSupervision (ownerTakes_sameSupervision (.of_linesOnly queryLineBody_linesOnly)) h
  | unsubscribe p => exact takes_sameSupervision (ownerTakes_sameSupervision (unsubscribeBody_keepsSupervision p)) h
  | poll p => exact takes_sameSupervision (ownerTakes_sameSupervision (fun _ s => .refl s)) h
  | attention p =>
    exact takes_sameSupervision (ownerTakes_sameSupervision (.of_linesOnly (attentionBody_linesOnly p))) h
  | subscribe p =>
    simp only [exec, execSubscribe] at h
    refine takes_sameSupervision (fun u => ?_) h
    split
    · exact ownerTakes_sameSupervision (subscribeBody_keepsSupervision p) u
    · exact .refl u
  | busTimeout p | busError p c | startCondition p | stopCondition p | addressByte p b | commandFrame p bs scl
  | responseRead p as scl => exact portEvent_sameSupervision h
  | millisecondTick order => exact takes_sameSupervision (tick_sameSupervision order) h
  | settleExpiry i =>
    simp only [exec, execSettleExpiry] at h
    refine takes_sameSupervision (fun u => ?_) h
    split
    · exact tick_sameSupervision [i] u
    · exact .refl u
  | renewExpiry id =>
    simp only [exec, execRenewExpiry] at h
    refine takes_sameSupervision (fun u => ?_) h
    split
    · exact asOneEvent_sameSupervision (fun v => (endLeaseAndScan_controllerOnly _ _ v).sameSupervision) u
    · exact .refl u
  | waitLapse ticket =>
    simp only [exec, execWaitLapse] at h
    refine takes_sameSupervision (fun u => ?_) h
    split
    · exact ((removeClaims_controllerOnly _ _ u).trans (scan_controllerOnly _)).sameSupervision
    · exact .refl u
  | offerLapse id =>
    simp only [exec, execOfferLapse] at h
    refine takes_sameSupervision (fun u => ?_) h
    split <;> exact .refl u
  | pulseCompletion i =>
    simp only [exec, execPulseCompletion] at h
    refine takes_sameSupervision (fun u => ?_) h
    split
    · exact asOneEvent_sameSupervision (fun v => (completePulse_linesOnly i _ v).sameSupervision) u
    all_goals exact .refl u
  | externalStateChange i x =>
    cases h
    split
    · exact .refl s
    · have board : SameSupervision s (s.setExternal i x) := rfl
      exact board.trans (asOneEvent_sameSupervision (fun v => (writeLine_linesOnly i _ v).sameSupervision) _)
  | filteredReport i =>
    simp only [exec, execFilteredReport] at h
    refine takes_sameSupervision (fun u => ?_) h
    split
    · rename_i v rest _
      have taken : SameSupervision u { u with reports := rest } := rfl
      exact taken.trans (asOneEvent_sameSupervision (fun w => (takeReport_linesOnly i v w).sameSupervision) _)
    · exact .refl u
  | arrival i =>
    simp only [exec, execArrival] at h
    refine takes_sameSupervision (fun u => ?_) h
    split
    · exact takeArrival_sameSupervision i _ _ u
    · exact .refl u
  | sampleTick =>
    simp only [exec, execSampleTick] at h
    refine takes_sameSupervision (fun u => ?_) h
    split
    · exact .refl u
    · exact (sampleAll_sameSupervision u).trans (tickWaits_sameSupervision _ _)

/-- R110: a RESERVE reaches neither the supervisor port nor the bus address. -/
theorem exec_reserve_standing {p : Host} {s t : State} (h : exec (.reserve p) s = .next t) : t.standing = s.standing :=
  takes_keep (P := fun u => u.standing = s.standing)
    (fun u same => (leaseControllerTakes_lineMoves (reserveBody_lineMoves p) u).standing.trans same) h rfl

/-- R67: the end of device reset reaches no allowed-host set. -/
theorem exec_deviceResetEnd_allowed {x : Straps} {s t : State} (h : exec (.deviceResetEnd x) s = .next t) :
    t.allowed = s.allowed := by
  cases h
  split
  · exact allowed_of_tables (tables_leaveReset x s)
  · rfl

/-- Settles O3: RESERVE leaves the straps as they were sampled, the end of device reset leaves the allowed-host sets, and
every other command and event leaves both. -/
theorem onlyTheirEventsChangeSupervision : Obligations.OnlyTheirEventsChangeSupervision := by
  intro i s t h noReset
  refine ⟨fun noEnd => ?_, fun noReserve => ?_⟩
  · by_cases reserve : ∃ p, i = .reserve p
    · obtain ⟨p, rfl⟩ := reserve
      have standing := exec_reserve_standing h
      exact ⟨congrArg Standing.supervisor standing, congrArg Standing.busAddress standing⟩
    · obtain ⟨supervisor, address, -⟩ :=
        sameSupervision_iff.mp (exec_sameSupervision h noReset noEnd (not_exists.mp reserve))
      exact ⟨supervisor, address⟩
  · by_cases ends : ∃ x, i = .deviceResetEnd x
    · obtain ⟨x, rfl⟩ := ends
      exact exec_deviceResetEnd_allowed h
    · obtain ⟨-, -, allowed⟩ :=
        sameSupervision_iff.mp (exec_sameSupervision h noReset (not_exists.mp ends) noReserve)
      exact allowed

/-! ### The supervisor's commands -/

/-- R106: no other port is the supervisor's. -/
theorem isSupervisor_of_ne {s : State} {p : Host} (h : s.supervisor ≠ some p) : s.isSupervisor p = false :=
  beq_eq_false_iff_ne.mpr h

/-- Settles O36: each of the three bodies begins with the check, and the body of DETACH has none. -/
theorem supervisorCommandsNeedTheSupervisorPort : Obligations.SupervisorCommandsNeedTheSupervisorPort := by
  intro s p tag
  refine ⟨fun i cmd row served other => ?_, fun served => ?_⟩
  · have refused : ∀ as rs, (s.servedAt p as rs).isSupervisor p = false := fun _ _ => isSupervisor_of_ne other
    obtain ⟨rfl, rfl⟩ | ⟨rfl, rfl⟩ | ⟨rfl, rfl⟩ := row
    · exact exec_kept (body := State.revokeBody p) (r := .refuse .notSupervisor) (fun _ => rfl)
        (IsRow.controller rfl).oneEvent rfl served fun as rs => by simp [State.revokeBody, refused]
    · exact exec_kept (body := State.reserveBody p) (r := .refuse .notSupervisor) (fun _ => rfl)
        (.controller rfl) rfl served fun as rs => by simp [State.reserveBody, refused]
    · exact exec_kept (body := State.clearHostBody p) (r := .refuse .notSupervisor) (fun _ => rfl)
        (IsRow.controller rfl).oneEvent rfl served fun as rs => by simp [State.clearHostBody, refused]
  · obtain ⟨⟨running, waiting⟩, pick⟩ := served
    obtain ⟨u, -, -, answered, -⟩ := (IsRow.controller (p := p) (cmd := .detach) rfl).oneEvent.answered
      (detachBody_wellAnswered p) ⟨waiting, rfl, fun _ => pick, fun e => by cases e⟩
    exact ⟨_, _, takes_running running, answered⟩

end Sys2Proof.Machine
end

section
/-! PROOF. The sample tick (R126 to R128): every line takes a sample, and a filtered level that three equal samples change is
told to its subscribers and reported to the line matrix. -/

namespace Sys2Proof.Machine

/-! ### One record -/

/-- R127, R128: the record of a line after a sample tick. -/
def InputRec.sampled (r : InputRec) : InputRec :=
  ⟨r.seen, r.middle, r.newest, r.seen, if r.middle = r.newest ∧ r.newest = r.seen then r.seen else r.filtered⟩

/-- R128: a sample tick changes the filtered level of the record. -/
def InputRec.refilters (r : InputRec) : Bool := r.sampled.filtered != r.filtered

/-- R128: the three samples decide exactly where the filtered level changes. -/
theorem decides_sample (r : InputRec) : r.sample.decides = r.refilters := by
  obtain ⟨seen, oldest, middle, newest, filtered⟩ := r
  revert seen oldest middle newest filtered
  decide

/-- R127: samples that decide nothing leave the filtered level. -/
theorem sample_eq_sampled {r : InputRec} (kept : r.refilters = false) : r.sample = r.sampled := by
  have filtered : r.sampled.filtered = r.filtered := by simpa [InputRec.refilters] using kept
  exact congrArg (InputRec.mk r.seen r.middle r.newest r.seen) filtered.symm

/-- R128: a filtered level that changes becomes the level seen. -/
theorem filtered_sampled {r : InputRec} (changed : r.refilters = true) : r.sampled.filtered = r.seen := by
  have moved : r.sampled.filtered ≠ r.filtered := by simpa [InputRec.refilters] using changed
  unfold InputRec.sampled at moved ⊢
  dsimp only at moved ⊢
  split
  · rfl
  · rename_i unequal
    exact absurd (if_neg unequal) moved

/-! ### What the lines of a tick report and raise -/

/-- R128: a subscription, if there is one, asks for an EDGE record when the filtered level of its line becomes `v`. -/
def watchesFiltered (v : Level) : Option Subscription → Bool
  | some ⟨mode, .filtered⟩ => mode.matchesEdge v
  | some ⟨_, .raw⟩ => false
  | none => false

/-- R128: the reports that a sample tick at these lines makes. -/
def State.filteredReports (s : State) (lines : List Line) : List LevelChange :=
  (lines.filter fun i => (s.input i).refilters).map fun i => ⟨i, (s.input i).sampled.filtered⟩

/-- R126, R128: the EDGE records that a sample tick at these lines raises for host `h`. -/
def State.filteredEdges (s : State) (h : Host) (lines : List Line) : List Event :=
  (lines.filter fun i => (s.input i).refilters && watchesFiltered (s.input i).sampled.filtered (s.subscription h i)).map
    fun i => .edge i (s.input i).sampled.filtered .filtered

theorem edgeEvents_filtered (s : State) (i : Line) (v : Level) (h : Host) :
    s.edgeEvents i v .filtered h = if watchesFiltered v (s.subscription h i) then [.edge i v .filtered] else [] := by
  unfold State.edgeEvents
  rcases s.subscription h i with _ | ⟨mode, _ | _⟩ <;> rfl

section

variable {s t : State} {lines : List Line} (same : ∀ i ∈ lines, t.input i = s.input i)

include same

theorem filteredReports_congr : t.filteredReports lines = s.filteredReports lines := by
  unfold State.filteredReports
  rw [List.filter_congr fun i hi => by rw [same i hi]]
  exact List.map_congr_left fun i hi => by rw [same i (List.mem_of_mem_filter hi)]

theorem filteredEdges_congr (subs : t.subs = s.subs) (h : Host) : t.filteredEdges h lines = s.filteredEdges h lines := by
  have subscription : ∀ i, t.subscription h i = s.subscription h i := fun i => by
    rw [State.subscription, subs]
    rfl
  unfold State.filteredEdges
  rw [List.filter_congr fun i hi => by rw [same i hi, subscription]]
  exact List.map_congr_left fun i hi => by rw [same i (List.mem_of_mem_filter hi)]

end

/-! ### Some lines -/

/-- R127, R128: the two states differ by a sample tick at these lines, in this order. -/
structure SamplesLines (lines : List Line) (s t : State) : Prop where
  frame : t = { s with inputs := t.inputs, reports := t.reports, queues := t.queues }
  input : ∀ i, t.input i = if i ∈ lines then (s.input i).sampled else s.input i
  reports : ∀ bs b, s.reports = bs ++ [b] → t.reports = bs ++ [b ++ s.filteredReports lines]
  received : ∀ h, Received h (s.filteredEdges h lines) s t

theorem SamplesLines.nil (s : State) : SamplesLines [] s s where
  frame := rfl
  input _ := rfl
  reports bs b e := by simpa [State.filteredReports] using e
  received _ := .of_same rfl

/-- R127, R128: one line and then others. -/
theorem SamplesLines.cons {x : Line} {xs : List Line} {s t u : State} (first : SamplesLines [x] s t)
    (rest : SamplesLines xs t u) (fresh : x ∉ xs) : SamplesLines (x :: xs) s u := by
  have subs : t.subs = s.subs := by rw [first.frame]
  have time : u.timestamp = t.timestamp := by rw [rest.frame]
  have same : ∀ i ∈ xs, t.input i = s.input i := fun i hi => by
    have other : i ≠ x := fun k => fresh (k ▸ hi)
    rw [first.input, if_neg (mt List.mem_singleton.mp other)]
  refine ⟨?_, fun i => ?_, fun bs b e => ?_, fun h => ?_⟩
  · rw [rest.frame, first.frame]
  · rw [rest.input]
    by_cases later : i ∈ xs
    · rw [if_pos later, if_pos (List.mem_cons_of_mem x later), same i later]
    · rw [if_neg later, first.input]
      simp [later]
  · rw [rest.reports bs _ (first.reports bs b e), filteredReports_congr same, List.append_assoc]
    simp only [State.filteredReports, ← List.map_append, ← List.filter_append, List.singleton_append]
  · have both := (first.received h).trans (rest.received h) time
    rw [filteredEdges_congr same subs] at both
    simpa only [State.filteredEdges, ← List.map_append, ← List.filter_append, List.singleton_append] using both

/-- R127: the seen level of a line added to its samples. -/
def State.sampleInput (s : State) (i : Line) : State := { s with inputs := updateLine s.inputs i InputRec.sample }

theorem input_sampleInput (s : State) (i j : Line) :
    (s.sampleInput i).input j = if j = i then (s.input i).sample else s.input j := input_updateLine s i j InputRec.sample

/-- R127, R128: a sample tick at one line, as its record decides. -/
theorem sampleLine_eq (s : State) (i : Line) : s.sampleLine i =
    if (s.input i).refilters then (s.sampleInput i).changeFiltered i (s.input i).sampled.filtered
    else s.sampleInput i := by
  have here : (s.sampleInput i).input i = (s.input i).sample := (input_sampleInput s i i).trans (if_pos rfl)
  have line : s.sampleLine i = if ((s.sampleInput i).input i).decides
      then (s.sampleInput i).changeFiltered i ((s.sampleInput i).input i).newest else s.sampleInput i := rfl
  rw [line, here, decides_sample]
  split
  · rename_i changed
    rw [filtered_sampled changed]
    rfl
  · rfl

/-- R128: a change of filtered level is told to the hosts that watch it. -/
theorem received_changeFiltered (i : Line) (v : Level) (s : State) (h : Host) :
    Received h (if watchesFiltered v (s.subscription h i) then [.edge i v .filtered] else []) s (s.changeFiltered i v) := by
  have edges := received_raiseEdges i v .filtered
    { s with inputs := updateLine s.inputs i fun r => { r with filtered := v } } h
  rw [edgeEvents_filtered] at edges
  unfold State.changeFiltered
  generalize State.raiseEdges i v .filtered _ = t at edges ⊢
  exact edges.congr rfl rfl rfl

/-- R127: a line whose filtered level stands makes no report and no record. -/
theorem sampleInput_samples {s : State} {i : Line} (kept : (s.input i).refilters = false) :
    SamplesLines [i] s (s.sampleInput i) where
  frame := rfl
  input j := by
    rw [input_sampleInput, sample_eq_sampled kept]
    by_cases same : j = i <;> simp [same]
  reports bs b e := by
    refine Eq.trans (b := s.reports) rfl ?_
    simp [e, State.filteredReports, kept]
  received h := by
    have quiet : s.filteredEdges h [i] = [] := by simp [State.filteredEdges, kept]
    rw [quiet]
    exact .of_same rfl

/-- R128: a line whose filtered level changes. -/
theorem changeFiltered_samples {s : State} {i : Line} (changed : (s.input i).refilters = true) :
    SamplesLines [i] s ((s.sampleInput i).changeFiltered i (s.input i).sampled.filtered) := by
  have frame := changeFiltered_frame i (s.input i).sampled.filtered (s.sampleInput i)
  have told := received_changeFiltered i (s.input i).sampled.filtered (s.sampleInput i)
  generalize (s.sampleInput i).changeFiltered i (s.input i).sampled.filtered = t at frame told ⊢
  refine ⟨by rw [frame]; rfl, fun j => ?_, fun bs b e => ?_, fun h => ?_⟩
  · rw [frame]
    refine (input_updateLine (s.sampleInput i) i j _).trans ?_
    rw [input_sampleInput, input_sampleInput, if_pos rfl]
    by_cases same : j = i
    · subst same
      simp [InputRec.sample, InputRec.sampled]
    · simp [same]
  · rw [frame]
    refine Eq.trans (b := handOn ⟨i, (s.input i).sampled.filtered⟩ s.reports) rfl ?_
    simp [e, handOn_append, State.filteredReports, changed]
  · have events : s.filteredEdges h [i] = if watchesFiltered (s.input i).sampled.filtered (s.subscription h i)
        then [.edge i (s.input i).sampled.filtered .filtered] else [] := by
      simp [State.filteredEdges, changed, List.filter_cons, apply_ite]
    rw [events]
    exact (told h).congr rfl rfl rfl

/-- R127, R128: a sample tick at one line. -/
theorem sampleLine_samples (s : State) (i : Line) : SamplesLines [i] s (s.sampleLine i) := by
  rw [sampleLine_eq]
  cases changes : (s.input i).refilters with
  | false => exact sampleInput_samples changes
  | true => exact changeFiltered_samples changes

/-- R127: a sample tick takes distinct lines one after another. -/
theorem sampleLines_samples {lines : List Line} (distinct : lines.Nodup) (s : State) :
    SamplesLines lines s (lines.foldl State.sampleLine s) := by
  induction lines generalizing s with
  | nil => exact .nil s
  | cons x xs ih =>
    obtain ⟨fresh, distinct⟩ := List.nodup_cons.mp distinct
    exact (sampleLine_samples s x).cons (ih distinct _) fresh

/-! ### The tick -/

/-- R128: nothing is reported exactly where every filtered level stands. -/
theorem filteredReports_eq_nil (s : State) :
    s.filteredReports allLines = [] ↔ ∀ i, (s.input i).sampled.filtered = (s.input i).filtered := by
  simp [State.filteredReports, InputRec.refilters, mem_allLines]

/-- R128: one event whose steps sample these lines leaves their reports in a list of their own, if there are any. -/
theorem asOneEvent_samples {f : State → State} {s t : State} {lines : List Line} (hf : f s.opened = t)
    (samples : SamplesLines lines s.opened t) : State.asOneEvent f s = { s with
      inputs := t.inputs, queues := t.queues
      reports := s.reports ++ (if s.filteredReports lines = [] then [] else [s.filteredReports lines]) } := by
  have arrivals : t.arrivals = s.arrivals ++ [[]] := by rw [samples.frame]; rfl
  rw [asOneEvent_of hf arrivals (samples.reports s.reports [] rfl), samples.frame, if_pos rfl, List.append_nil]
  rfl

/-- R127, R128: the tick as one event, whose lines are sampled one after another. -/
theorem sampleAll_spec (s : State) :
    s.sampleAll = { s with inputs := s.sampleAll.inputs, reports := s.sampleAll.reports, queues := s.sampleAll.queues }
      ∧ (∀ i, s.sampleAll.input i = (s.input i).sampled)
      ∧ s.sampleAll.reports = s.reports ++
          (if s.filteredReports allLines = [] then [] else [s.filteredReports allLines])
      ∧ ∀ h, Received h (s.filteredEdges h allLines) s s.sampleAll := by
  have samples := sampleLines_samples allLines_nodup s.opened
  have event := asOneEvent_samples (f := fun t => allLines.foldl State.sampleLine t) (s := s) rfl samples
  rw [State.sampleAll, event]
  generalize allLines.foldl State.sampleLine s.opened = t at samples ⊢
  exact ⟨rfl, fun i => (samples.input i).trans (if_pos (mem_allLines i)), rfl,
    fun h => (samples.received h).congr rfl rfl (congrArg State.timestamp samples.frame).symm⟩

/-- R123, R133: a sample tick is not taken before an overdue command or an arrival of the end of device reset. -/
theorem exec_sampleTick_waits {s : State} (waits : s.overdue .inputMonitor = true ∨ s.startUp ≠ []) :
    exec .sampleTick s = .next s := by
  have late : (s.overdue .inputMonitor || !s.startUp.isEmpty) = true := by simpa using waits
  simp only [exec, execSampleTick, State.takes, late, if_true, ite_self]

theorem exec_sampleTick {s : State} (running : s.inReset = false) (free : s.overdue .inputMonitor = false)
    (started : s.startUp = []) : exec .sampleTick s = .next (s.sampleAll.tickWaits .inputMonitor) := by
  simp only [exec, execSampleTick, takes_running running, free, started]
  rfl

/-- Settles O49: the tick is `sampleAll`, whose lines are taken one by one, and then it is noted at the ports. -/
theorem sampleTickFiltersEveryLine : Obligations.SampleTickFiltersEveryLine := by
  intro s running
  refine ⟨exec_sampleTick_waits, fun free started => ?_⟩
  have taken := exec_sampleTick running free started
  have ports := ports_sampleAll s
  obtain ⟨frame, input, reports, received⟩ := sampleAll_spec s
  generalize s.sampleAll = t at taken ports frame input reports received
  have input' : ∀ i, (t.tickWaits .inputMonitor).input i = (s.input i).sampled := input
  refine ⟨_, taken, ?_, fun p => ?_, input', ?_, fun h => ?_⟩
  · rw [State.tickWaits, frame]
  · rw [port_tickWaits, State.port, ports]
    rfl
  · simp only [input', ← filteredReports_eq_nil]
    exact reports
  · simp only [input']
    exact (received h).congr rfl rfl rfl

end Sys2Proof.Machine
end

section
/-! PROOF. SUBSCRIBE and UNSUBSCRIBE (R123, R124): what each refuses, and the subscriptions each writes. -/

namespace Sys2Proof.Machine

/-! ### Codes -/

theorem edgeModeOf_of_large : ∀ {n : Nat}, 2 < n → edgeModeOf n = none
  | _ + 3, _ => rfl

theorem filterOf_of_large : ∀ {n : Nat}, 1 < n → filterOf n = none
  | _ + 2, _ => rfl

/-! ### Bodies -/

section

variable {ps : List Byte} (caller : Host) (s : State)

/-- R123: a mask that names no line, or a code that names no edge mode or filter. -/
theorem subscribeBody_refused (bad : paramMask ps 0 = 0 ∨ 2 < (param ps 3).toNat ∨ 1 < (param ps 4).toNat) :
    State.subscribeBody caller ps s = (s, Reply.refuse .badParam) := by
  unfold State.subscribeBody
  split
  · rfl
  · rename_i named
    split
    · rename_i mode filter
      rcases bad with empty | large | large
      · exact absurd empty named
      · simp [edgeModeOf_of_large large] at mode
      · simp [filterOf_of_large large] at filter
    · rfl

/-- R123: the caller's subscriptions on the masked lines are written, and the lines it then watches are counted. -/
theorem subscribeBody_ok {mode : EdgeMode} {filter : Filter} (named : paramMask ps 0 ≠ 0)
    (hmode : edgeModeOf (param ps 3).toNat = some mode) (hfilter : filterOf (param ps 4).toNat = some filter) :
    State.subscribeBody caller ps s =
      (s.writeSubscriptions caller (paramMask ps 0) (some ⟨mode, filter⟩),
        ⟨.ok, [byteOf ((s.writeSubscriptions caller (paramMask ps 0) (some ⟨mode, filter⟩)).subscribedLines caller)]⟩) := by
  simp only [State.subscribeBody, if_neg named, hmode, hfilter]

theorem unsubscribeBody_refused (empty : paramMask ps 0 = 0) :
    State.unsubscribeBody caller ps s = (s, Reply.refuse .badParam) := if_pos empty

theorem unsubscribeBody_ok (named : paramMask ps 0 ≠ 0) : State.unsubscribeBody caller ps s =
    (s.writeSubscriptions caller (paramMask ps 0) none,
      ⟨.ok, [byteOf ((s.writeSubscriptions caller (paramMask ps 0) none).subscribedLines caller)]⟩) := if_neg named

end

/-! ### Rows -/

/-- R133: no SUBSCRIBE is taken before the arrivals of the end of device reset. -/
theorem exec_subscribe_awaiting {s : State} (p : Host) (awaiting : s.startUp ≠ []) : exec (.subscribe p) s = .next s := by
  simp only [exec, execSubscribe, State.takes, List.isEmpty_iff, if_neg awaiting, ite_self]

theorem exec_subscribe_started {s : State} (p : Host) (started : s.startUp = []) : exec (.subscribe p) s =
    s.takes (State.ownerTakes p .subscribe (fun _ => true) (State.subscribeBody p)) := by
  simp only [exec, execSubscribe, State.takes, started, List.isEmpty_nil, if_true]

/-- R123, R124: a body that writes one subscription, or none, on the masked lines of the caller and answers how many lines it
then watches. -/
theorem exec_writeSubscriptions {i : Instr} {s : State} {p : Host} {cmd : Cmd} {tag : Byte} {applies : List Byte → Bool}
    {body : List Byte → State → State × Reply} {m : LineMask} {x : Option Subscription}
    (meaning : exec i s = s.takes (State.ownerTakes p cmd applies body)) (waiting : Waiting s p cmd tag)
    (params : applies (s.port p).params = true)
    (hb : body (s.port p).params s =
      (s.writeSubscriptions p m x, ⟨.ok, [byteOf ((s.writeSubscriptions p m x).subscribedLines p)]⟩)) :
    ∃ t, exec i s = .next t ∧ t = { s with subs := t.subs, ports := t.ports }
      ∧ (∀ (h : Host) (i : Line), t.subscription h i =
          if h = p ∧ m.getLsbD i.val = true then x else s.subscription h i)
      ∧ Answered p tag cmd .ok [byteOf (allLines.filter fun i => (t.subscription p i).isSome).length] s t := by
  obtain ⟨running, slot⟩ := waiting
  refine ⟨_, meaning.trans (takes_running running), ?_⟩
  rw [ownerTakes_waiting slot params, hb]
  exact ⟨rfl, fun h i => subscription_writeSubscriptions p h m x s i, answered_placeResult rfl⟩

/-- Settles O50: each body writes the subscriptions of the masked lines or refuses, and the row answers at its port. -/
theorem subscriptionsFollowTheMask : Obligations.SubscriptionsFollowTheMask := by
  intro s p tag
  refine ⟨exec_subscribe_awaiting p, fun waiting started bad => ?_, fun waiting empty => ?_,
    fun named => ⟨fun mode filter waiting started hmode hfilter => ?_, fun waiting => ?_⟩⟩
  · exact exec_query (exec_subscribe_started p started) waiting rfl (subscribeBody_refused p s bad)
  · exact exec_query (applies := fun _ => true) rfl waiting rfl (unsubscribeBody_refused p s empty)
  · exact exec_writeSubscriptions (exec_subscribe_started p started) waiting rfl
      (subscribeBody_ok p s named hmode hfilter)
  · exact exec_writeSubscriptions (applies := fun _ => true) rfl waiting rfl (unsubscribeBody_ok p s named)

end Sys2Proof.Machine
end

section
/-! PROOF. One event queue (R136, R138, R140, R141, R143 to R145, R149, R151): the order of its seqs, what an acknowledgement
removes, and its laws after each thing that can happen to it. -/

namespace Sys2Proof.Machine

/-! ### Seqs -/

/-- R138: seqs count modulo 256. -/
theorem seq_add (n : Byte) (j k : Nat) : n + BitVec.ofNat 8 j + BitVec.ofNat 8 k = n + BitVec.ofNat 8 (j + k) := by
  rw [BitVec.add_assoc, BitVec.ofNat_add]

theorem seq_succ (n : Byte) (k : Nat) : n + 1 + BitVec.ofNat 8 k = n + BitVec.ofNat 8 (k + 1) := by
  rw [Nat.add_comm k 1]
  exact seq_add n 1 k

/-- R138: fewer than 256 seqs in a row are distinct. -/
theorem seq_inj {n : Byte} {j k : Nat} (hj : j < 256) (hk : k < 256)
    (same : n + BitVec.ofNat 8 j = n + BitVec.ofNat 8 k) : j = k := by
  have values := congrArg BitVec.toNat ((BitVec.add_right_inj n).mp same)
  rwa [BitVec.toNat_ofNat, BitVec.toNat_ofNat, Nat.mod_eq_of_lt hj, Nat.mod_eq_of_lt hk] at values

theorem seq_ne_self {n : Byte} {j : Nat} (one : 1 ≤ j) (hj : j < 256) : n ≠ n + BitVec.ofNat 8 j := by
  intro same
  have none : 0 = j := seq_inj (n := n) (by omega) hj ((BitVec.add_zero n).trans same)
  omega

theorem consecutive_append {n : Byte} {xs ys : List EventRecord} :
    Consecutive n (xs ++ ys) ↔ Consecutive n xs ∧ Consecutive (n + BitVec.ofNat 8 xs.length) ys := by
  induction xs generalizing n with
  | nil => simp [Consecutive]
  | cons x xs ih => simp only [List.cons_append, Consecutive, ih, List.length_cons, seq_succ, and_assoc]

/-- R138: the seqs that consecutive records carry. -/
theorem Consecutive.any_seq {n seq : Byte} {rs : List EventRecord} (h : Consecutive n rs) :
    (rs.any fun r => r.seq == seq) = true ↔ ∃ k < rs.length, seq = n + BitVec.ofNat 8 k := by
  induction rs generalizing n with
  | nil => simp
  | cons r rs ih =>
    obtain ⟨rfl, rest⟩ := h
    simp only [List.any_cons, Bool.or_eq_true, beq_iff_eq, ih rest, List.length_cons, Nat.exists_lt_succ_left, seq_succ]
    simp [eq_comm]

/-- R144: the records after the one that stands at place `k`. -/
theorem Consecutive.afterSeq_eq {n : Byte} {rs : List EventRecord} (h : Consecutive n rs) (short : rs.length ≤ 256)
    {k : Nat} (hk : k < rs.length) : afterSeq (n + BitVec.ofNat 8 k) rs = rs.drop (k + 1) := by
  induction rs generalizing n k with
  | nil => cases hk
  | cons r rs ih =>
    obtain ⟨rfl, rest⟩ := h
    rw [List.length_cons] at short hk
    cases k with
    | zero => simp [afterSeq]
    | succ k =>
      have other : r.seq ≠ r.seq + BitVec.ofNat 8 (k + 1) := seq_ne_self (by omega) (by omega)
      rw [afterSeq, if_neg other, ← seq_succ, ih rest (by omega) (by omega), List.drop_succ_cons]

/-! ### Acknowledgement -/

/-- R145: the OVERFLOW record, where records were lost. -/
def EventQueue.overflowRecords (now : Timestamp) (q : EventQueue) : List EventRecord :=
  if q.lost = 0 then [] else [⟨.overflow q.lost, q.counter, now⟩]

/-- R144, R145: the queue after an acknowledgement that removes its first `j` records. -/
def EventQueue.acknowledged (now : Timestamp) (j : Nat) (q : EventQueue) : EventQueue :=
  { q with
    records := q.records.drop j ++ q.overflowRecords now
    counter := q.counter + (if q.lost = 0 then 0 else 1)
    lastAck := q.lastAck + BitVec.ofNat 8 j
    lost := 0
    attention := q.enable && !(q.records.drop j ++ q.overflowRecords now).isEmpty }

section

variable {q : EventQueue} {now : Timestamp} {seq : Byte} {j : Nat}

/-- R143: the seqs in the window. -/
theorem EventQueue.Ok.holds_iff (ok : q.Ok) :
    q.holds seq = true ↔ ∃ j, 1 ≤ j ∧ j ≤ q.records.length ∧ seq = q.lastAck + BitVec.ofNat 8 j := by
  obtain ⟨-, consecutive, -⟩ := ok
  rw [EventQueue.holds, consecutive.any_seq]
  constructor
  · rintro ⟨k, hk, rfl⟩
    exact ⟨k + 1, by omega, hk, seq_succ _ k⟩
  · rintro ⟨_ | k, one, hk, rfl⟩
    · cases one
    · exact ⟨k, hk, (seq_succ _ k).symm⟩

/-- R143: the last acknowledged seq is not in the window. -/
theorem EventQueue.Ok.not_holds_lastAck (ok : q.Ok) : q.holds q.lastAck = false := by
  have short : q.records.length ≤ 32 := ok.1
  rw [Bool.eq_false_iff, ne_eq, ok.holds_iff]
  rintro ⟨j, one, hj, same⟩
  exact seq_ne_self one (by omega) same

/-- R143: an ack seq is accepted where it removes some records or none. -/
theorem EventQueue.Ok.acceptsAck_iff (ok : q.Ok) :
    q.acceptsAck seq = true ↔ ∃ j ≤ q.records.length, seq = q.lastAck + BitVec.ofNat 8 j := by
  rw [EventQueue.acceptsAck, Bool.or_eq_true, beq_iff_eq, ok.holds_iff]
  constructor
  · rintro (⟨j, -, hj, same⟩ | same)
    · exact ⟨j, hj, same⟩
    · exact ⟨0, Nat.zero_le _, by simpa using same⟩
  · rintro ⟨_ | j, hj, same⟩
    · exact .inr (by simpa using same)
    · exact .inl ⟨j + 1, by omega, hj, same⟩

/-- R144: a seq that no record carries removes nothing. -/
theorem acknowledge_of_not_holds (h : q.holds seq = false) : q.acknowledge now seq = q := by
  simp [EventQueue.acknowledge, h]

/-- R144, R145: the seq `j` after the last acknowledged one removes the first `j` records; a queue that lost records was full,
so that the OVERFLOW record finds room. -/
theorem EventQueue.Ok.acknowledge_eq (ok : q.Ok) (one : 1 ≤ j) (hj : j ≤ q.records.length) :
    q.acknowledge now (q.lastAck + BitVec.ofNat 8 j) = q.acknowledged now j := by
  have held := ok.holds_iff.mpr ⟨j, one, hj, rfl⟩
  obtain ⟨short, consecutive, -⟩ := ok
  have short : q.records.length ≤ 32 := short
  have after : afterSeq (q.lastAck + BitVec.ofNat 8 j) q.records = q.records.drop j := by
    obtain ⟨k, rfl⟩ := Nat.exists_eq_add_of_le' one
    rw [← seq_succ]
    exact consecutive.afterSeq_eq (by omega) hj
  rw [EventQueue.acknowledge, if_pos held, after]
  by_cases lossless : q.lost = 0
  · simp [EventQueue.acknowledged, EventQueue.overflowRecords, EventQueue.attend, lossless]
  · have room : (q.records.drop j).length < 32 := by rw [List.length_drop]; omega
    dsimp only
    rw [if_neg lossless, arrive_of_room now _ room]
    simp [EventQueue.acknowledged, EventQueue.overflowRecords, lossless]

/-! ### The laws -/

/-- R149: the attention line follows the queue. -/
theorem EventQueue.Ok.attend (ok : q.Ok) (on : Bool) : (EventQueue.attend { q with enable := on }).Ok := by
  obtain ⟨short, consecutive, counter, lost, full, -⟩ := ok
  exact ⟨short, consecutive, counter, lost, full, rfl⟩

/-- R140, R141: the laws after an arrival. -/
theorem EventQueue.Ok.arrive (ok : q.Ok) (now : Timestamp) (e : Event) : (EventQueue.arrive now e q).Ok := by
  obtain ⟨short, consecutive, counter, lost, full, attention⟩ := ok
  by_cases room : q.records.length < 32
  · have lossless : q.lost = 0 := by
      by_contra lossy
      exact absurd (full lossy) room.ne
    rw [arrive_of_room now e room]
    refine ⟨?_, consecutive_append.mpr ⟨consecutive, counter, trivial⟩, ?_, lost, fun lossy => absurd lossless lossy,
      by simp⟩
    · rw [List.length_append]
      exact room
    · rw [List.length_append, ← seq_add, ← counter]
      rfl
  · rw [arrive_of_full now e (by omega)]
    exact ⟨short, consecutive, counter, Nat.min_le_left _ _,
      fun _ => Nat.le_antisymm short (Nat.le_of_not_lt room), attention⟩

theorem EventQueue.Ok.acknowledged (ok : q.Ok) (now : Timestamp) (one : 1 ≤ j) (hj : j ≤ q.records.length) :
    (q.acknowledged now j).Ok := by
  obtain ⟨short, consecutive, counter, -, -, -⟩ := ok
  have short : q.records.length ≤ 32 := short
  have shifted : q.lastAck + 1 + BitVec.ofNat 8 j = q.lastAck + BitVec.ofNat 8 j + 1 := by
    rw [BitVec.add_assoc, BitVec.add_assoc, BitVec.add_comm 1]
  have left : Consecutive (q.lastAck + BitVec.ofNat 8 j + 1) (q.records.drop j) := by
    rw [← List.take_append_drop j q.records, consecutive_append, List.length_take_of_le hj, shifted] at consecutive
    exact consecutive.2
  have next : q.counter = q.lastAck + BitVec.ofNat 8 j + 1 + BitVec.ofNat 8 (q.records.drop j).length := by
    rw [counter, ← shifted, seq_add, List.length_drop, Nat.add_sub_cancel' hj]
  unfold EventQueue.acknowledged EventQueue.overflowRecords
  by_cases lossless : q.lost = 0
  · simp only [lossless, if_true, List.append_nil]
    refine ⟨?_, left, (BitVec.add_zero _).trans next, Nat.zero_le _, fun lossy => absurd rfl lossy, rfl⟩
    exact (List.length_drop ▸ Nat.sub_le _ _).trans short
  · simp only [lossless, if_false]
    refine ⟨?_, consecutive_append.mpr ⟨left, next, trivial⟩, ?_, Nat.zero_le _, fun lossy => absurd rfl lossy, rfl⟩
    · simp only [List.length_append, List.length_drop, List.length_cons, List.length_nil, queueRecords]
      omega
    · rw [List.length_append, ← seq_add, ← next]
      rfl

theorem EventQueue.Ok.acknowledge (ok : q.Ok) (now : Timestamp) (seq : Byte) : (q.acknowledge now seq).Ok := by
  cases held : q.holds seq with
  | true =>
    obtain ⟨j, one, hj, rfl⟩ := ok.holds_iff.mp held
    rw [ok.acknowledge_eq one hj]
    exact ok.acknowledged now one hj
  | false => rwa [acknowledge_of_not_holds held]

/-- R136: the laws of an empty queue. -/
theorem eventQueue_reset_ok : EventQueue.reset.Ok := by
  have law := eventQueueLaw_reset 0
  rwa [eventQueue_reset] at law

/-- R151: and of one that a teardown cleared. -/
theorem eventQueue_clear_ok (now : Timestamp) (supervisor : Option Host) : (EventQueue.clear now supervisor).Ok := by
  cases supervisor with
  | none => exact eventQueue_reset_ok
  | some h => exact eventQueue_reset_ok.arrive now _

end

end Sys2Proof.Machine
end

section
/-! PROOF. POLL and ATTENTION (R143 to R147, R149, R150): what each makes of the caller's queue and what it answers. -/

namespace Sys2Proof.Machine

/-! ### POLL -/

/-- R143, R144: a POLL leaves the queue, or acknowledges the ack seq. -/
theorem poll_moves (ps : List Byte) (now : Timestamp) (q : EventQueue) :
    (q.poll now ps).1 = q ∨ (q.poll now ps).1 = q.acknowledge now (param ps 1) := by
  unfold EventQueue.poll
  split
  · exact .inl rfl
  · rename_i ack _
    split
    · exact .inl rfl
    · split
      · exact .inl rfl
      · cases ack with
        | false => exact .inl rfl
        | true => exact .inr rfl

section

variable {q : EventQueue} {now : Timestamp} {ps : List Byte} {j : Nat}

/-- R143: a flag that is no flag, or a maximum out of its range. -/
theorem poll_badParam (bad : 1 < (param ps 0).toNat ∨ (param ps 2).toNat = 0 ∨ 7 < (param ps 2).toNat) :
    q.poll now ps = (q, Reply.refuse .badParam) := by
  unfold EventQueue.poll
  split
  · rfl
  · rename_i flag
    rcases bad with large | bad
    · simp [bitOf_of_large large] at flag
    · rw [if_pos bad]

/-- R143, R144, R146: a POLL whose parameters are right, with or without an acknowledgement. -/
theorem poll_of_flag {ack : Bool} (flag : (param ps 0).toNat = if ack then 1 else 0) (low : 1 ≤ (param ps 2).toNat)
    (high : (param ps 2).toNat ≤ 7) : q.poll now ps =
      if ack && !q.acceptsAck (param ps 1) then (q, Reply.refuse .badSeq)
      else ((if ack then q.acknowledge now (param ps 1) else q),
        ⟨.ok, (if ack then q.acknowledge now (param ps 1) else q).firstRecords (param ps 2).toNat⟩) := by
  have range : ¬((param ps 2).toNat = 0 ∨ 7 < (param ps 2).toNat) := by omega
  simp only [EventQueue.poll, flag, bitOf_bit, if_neg range]

variable (low : 1 ≤ (param ps 2).toNat) (high : (param ps 2).toNat ≤ 7)

include low high

/-- R144: no acknowledgement. -/
theorem poll_without_ack (flag : (param ps 0).toNat = 0) :
    q.poll now ps = (q, ⟨.ok, q.firstRecords (param ps 2).toNat⟩) :=
  poll_of_flag (ack := false) flag low high

/-- R143: an ack seq that removes neither some records nor none. -/
theorem poll_badSeq (ok : q.Ok) (flag : (param ps 0).toNat = 1)
    (outside : ∀ j, j ≤ q.records.length → param ps 1 ≠ q.lastAck + BitVec.ofNat 8 j) :
    q.poll now ps = (q, Reply.refuse .badSeq) := by
  have refused : q.acceptsAck (param ps 1) = false := by
    rw [Bool.eq_false_iff, ne_eq, ok.acceptsAck_iff]
    rintro ⟨j, hj, same⟩
    exact outside j hj same
  rw [poll_of_flag (ack := true) flag low high, refused]
  rfl

/-- R144, R146: an ack seq in its window. -/
theorem poll_acknowledges (ok : q.Ok) (flag : (param ps 0).toNat = 1) (one : 1 ≤ j) (hj : j ≤ q.records.length)
    (seq : param ps 1 = q.lastAck + BitVec.ofNat 8 j) :
    q.poll now ps = (q.acknowledged now j, ⟨.ok, (q.acknowledged now j).firstRecords (param ps 2).toNat⟩) := by
  have accepted : q.acceptsAck (param ps 1) = true := ok.acceptsAck_iff.mpr ⟨j, hj, seq⟩
  rw [poll_of_flag (ack := true) flag low high, accepted, seq]
  simp only [if_true, ok.acknowledge_eq one hj]
  rfl

/-- R144: the last acknowledged seq. -/
theorem poll_of_lastAck (ok : q.Ok) (flag : (param ps 0).toNat = 1) (seq : param ps 1 = q.lastAck) :
    q.poll now ps = (q, ⟨.ok, q.firstRecords (param ps 2).toNat⟩) := by
  have accepted : q.acceptsAck q.lastAck = true := by simp [EventQueue.acceptsAck]
  rw [poll_of_flag (ack := true) flag low high, seq, accepted]
  simp only [if_true, acknowledge_of_not_holds ok.not_holds_lastAck]
  rfl

end

/-! ### The rows of POLL and ATTENTION -/

section

variable {i : Instr} {s : State} {p : Host} {cmd : Cmd} {tag : Byte} {r : Reply} {q : EventQueue}
  {body : List Byte → State → State × Reply}

/-- R169: a body that brings the caller's queue to `q` and answers `r`. -/
theorem exec_ownQueue (meaning : exec i s = s.takes (State.ownerTakes p cmd (fun _ => true) body))
    (waiting : Waiting s p cmd tag) (hb : body (s.port p).params s = (s.updateQueue p fun _ => q, r)) :
    ∃ t, exec i s = .next t ∧ t = { s with queues := t.queues, ports := t.ports }
      ∧ (∀ h, h ≠ p → t.eventQueue h = s.eventQueue h) ∧ t.eventQueue p = q
      ∧ Answered p tag cmd r.status r.data s t := by
  obtain ⟨running, slot⟩ := waiting
  refine ⟨_, meaning.trans (takes_running running), ?_⟩
  rw [ownerTakes_waiting slot rfl, hb]
  exact ⟨rfl, fun h other => (s.eventQueue_updateQueue p h _).trans (if_neg other),
    (s.eventQueue_updateQueue p p _).trans (if_pos rfl), answered_placeResult rfl⟩

/-- R143, R169: a POLL that leaves the caller's queue. -/
theorem exec_poll_kept (waiting : Waiting s p .poll tag)
    (poll : (s.eventQueue p).poll s.timestamp (s.port p).params = (s.eventQueue p, r)) :
    ∃ t, exec (.poll p) s = .next t ∧ t = { s with ports := t.ports } ∧ Answered p tag .poll r.status r.data s t := by
  refine exec_query (applies := fun _ => true) (body := State.pollBody p) rfl waiting rfl ?_
  rw [State.pollBody, poll]
  exact congrArg (·, r) (updateQueue_self s p)

end

/-- Settles O51: the four outcomes of a POLL, by where the ack seq lies. -/
theorem pollAcknowledgesThroughTheSeq : Obligations.PollAcknowledgesThroughTheSeq := by
  refine ⟨fun seq time e => ?_, fun s p tag waiting ok => ⟨fun bad => ?_, fun low high => ⟨fun j flag one hj seq => ?_,
    fun nothing => ?_, fun flag outside => ?_⟩⟩⟩
  · cases e with
    | edge line level filter => cases filter <;> rfl
    | _ => rfl
  · exact exec_poll_kept waiting (poll_badParam bad)
  · have poll := poll_acknowledges (now := s.timestamp) low high ok flag one hj seq
    obtain ⟨t, ht, frame, others, own, answered⟩ := exec_ownQueue (i := .poll p) (body := State.pollBody p) rfl
      waiting (by rw [State.pollBody, poll])
    refine ⟨t, ht, frame, others, ?_, ?_⟩
    · rw [own, seq]
      rfl
    · rw [own]
      exact answered
  · rcases nothing with flag | ⟨flag, seq⟩
    · exact exec_poll_kept waiting (poll_without_ack low high flag)
    · exact exec_poll_kept waiting (poll_of_lastAck low high ok flag seq)
  · exact exec_poll_kept waiting (poll_badSeq low high ok flag outside)

/-- Settles O52: the enable is set and the line follows, or the value names no enable. -/
theorem attentionSetsTheEnable : Obligations.AttentionSetsTheEnable := by
  intro s p tag waiting
  refine ⟨fun on value => ?_, fun large => ?_⟩
  · refine exec_ownQueue (body := State.attentionBody p) rfl waiting (r := .ok) ?_
    have named : bitOf (param (s.port p).params 0).toNat = some on := (congrArg bitOf value).trans (bitOf_bit on)
    rw [State.attentionBody, named]
    rfl
  · refine exec_query (body := State.attentionBody p) (applies := fun _ => true) (r := .refuse .badParam) rfl waiting rfl ?_
    have unnamed : bitOf (param (s.port p).params 0).toNat = none := bitOf_of_large large
    rw [State.attentionBody, unnamed]

end Sys2Proof.Machine
end

section
/-! PROOF. What a command can do to the event queues (R136 to R151): events arrive, a POLL acknowledges, ATTENTION sets the
enable, and a teardown or a device reset empties a queue; each keeps the laws of the queue. -/

namespace Sys2Proof.Machine

/-! ### Moves of one queue -/

/-- R140, R141, R144, R150, R151: what can happen to one event queue. -/
inductive QueueMove : EventQueue → EventQueue → Prop where
  | arrive (now : Timestamp) (e : Event) (q : EventQueue) : QueueMove q (EventQueue.arrive now e q)
  | acknowledge (now : Timestamp) (seq : Byte) (q : EventQueue) : QueueMove q (q.acknowledge now seq)
  | attend (on : Bool) (q : EventQueue) : QueueMove q (EventQueue.attend { q with enable := on })
  | clear (now : Timestamp) (supervisor : Option Host) (q : EventQueue) : QueueMove q (EventQueue.clear now supervisor)

/-- R138, R141, R149: every move keeps the laws of the queue. -/
theorem QueueMove.ok {q r : EventQueue} (h : QueueMove q r) (ok : q.Ok) : r.Ok := by
  cases h with
  | arrive now e => exact ok.arrive now e
  | acknowledge now seq => exact ok.acknowledge now seq
  | attend on => exact ok.attend on
  | clear now supervisor => exact eventQueue_clear_ok now supervisor

/-- Between the two states each event queue makes moves, one after another. -/
def QueueMoves (s t : State) : Prop := ∀ h, Relation.ReflTransGen QueueMove (s.eventQueue h) (t.eventQueue h)

section

variable {s t u : State}

theorem QueueMoves.refl (s : State) : QueueMoves s s := fun _ => .refl

theorem QueueMoves.trans (h : QueueMoves s t) (k : QueueMoves t u) : QueueMoves s u := fun n => (h n).trans (k n)

theorem QueueMoves.foldl {α : Type} {g : State → α → State} (step : ∀ s x, QueueMoves s (g s x)) (xs : List α)
    (s : State) : QueueMoves s (xs.foldl g s) :=
  foldl_rel QueueMoves.refl .trans step xs s

theorem QueueMoves.of_same (h : t.queues = s.queues) : QueueMoves s t := fun n => by
  rw [State.eventQueue, State.eventQueue, h]

/-- R140: what each host receives arrives at its queue, event by event. -/
theorem QueueMoves.of_received (h : ∀ n, ∃ events, Received n events s t) : QueueMoves s t := by
  intro n
  obtain ⟨events, received⟩ := h n
  rw [received]
  exact foldl_rel (rel := Relation.ReflTransGen QueueMove) (fun _ => .refl) .trans
    (fun q e => .single (.arrive t.timestamp e q)) events _

/-- A queue that one host's command moves. -/
theorem updateQueue_queueMoves (s : State) (n : Host) {f : EventQueue → EventQueue}
    (move : QueueMove (s.eventQueue n) (f (s.eventQueue n))) : QueueMoves s (s.updateQueue n f) := by
  intro k
  rw [State.eventQueue_updateQueue]
  split
  · rename_i same
    rw [same]
    exact .single move
  · exact .refl

/-- R138, R141, R149: moves keep the laws of every queue. -/
theorem QueueMoves.law (h : QueueMoves s t) (law : EventQueueLaw s) : EventQueueLaw t := fun n =>
  Relation.ReflTransGen.head_induction_on (motive := fun q _ => q.Ok → (t.eventQueue n).Ok) (h n) id
    (fun move _ ih ok => ih (move.ok ok)) (law n)

end

/-! ### Shared operations -/

section

variable (s : State)

theorem raise_queueMoves (h : Host) (e : Event) : QueueMoves s (s.raise h e) :=
  .of_received fun n => ⟨_, received_raise s h e n⟩

theorem raiseHolder_queueMoves (b : Option Binding) (e : Event) : QueueMoves s (s.raiseHolder b e) := by
  cases b with
  | none => exact .refl s
  | some b => exact raise_queueMoves s b.host e

theorem writeLine_queueMoves (i : Line) (r : LineRec) : QueueMoves s (s.writeLine i r) :=
  .of_same (queues_writeLine s i r)

theorem driveLine_queueMoves (i : Line) (r : LineRec) : QueueMoves s (s.driveLine i r) :=
  .of_same (queues_driveLine s i r)

theorem present_queueMoves (source : Line) : QueueMoves s (s.present source) :=
  .of_received fun n => ⟨_, received_present source s n⟩

theorem driveTest_queueMoves (i : Line) (v : Level) : QueueMoves s (s.driveTest i v) :=
  .of_received fun n => ⟨_, received_driveTest s i v n⟩

theorem parkLines_queueMoves (entries : List LineEntry) : QueueMoves s (s.parkLines entries) :=
  (QueueMoves.foldl (fun t (e : LineEntry) => writeLine_queueMoves t e.line _) entries s).trans
    (.foldl (fun t (e : LineEntry) => present_queueMoves t e.line) entries _)

theorem grant_queueMoves (h : Host) (entries : List LineEntry) (interval : Nat) :
    QueueMoves s (s.grant h entries interval) := .of_same (by rw [grant_frame])

theorem scan_queueMoves : QueueMoves s s.scan := by
  obtain ⟨grants, -, -, received⟩ := scan_spec s
  exact .of_received fun n => ⟨_, received n⟩

theorem scanIf_queueMoves (removed : Bool) : QueueMoves s (s.scanIf removed) := by
  cases removed
  · exact .refl s
  · exact scan_queueMoves s

theorem removeClaims_queueMoves (p : Claim → Bool) (reason : Option Reason) : QueueMoves s (s.removeClaims p reason) :=
  .of_received fun n => ⟨_, received_removeClaims p reason s n⟩

theorem transfer_queueMoves (l : Lease) (h : Host) : QueueMoves s (s.transfer l h) :=
  .of_received fun n => ⟨_, received_transfer l h s n⟩

theorem endLease_queueMoves (l : Lease) (cause : EndCause) : QueueMoves s (s.endLease l cause) :=
  have notices : QueueMoves s ((s.withdrawOffer l cause).noticeLoss l cause) :=
    .of_received fun n => ⟨_, received_notices l cause s n⟩
  (notices.trans (parkLines_queueMoves _ l.entries)).trans (.of_same rfl)

theorem endLeaseAndScan_queueMoves (l : Lease) (cause : EndCause) : QueueMoves s (s.endLeaseAndScan l cause) :=
  (endLease_queueMoves s l cause).trans (scan_queueMoves _)

/-- R114, R151: a teardown empties the queue of its host. -/
theorem teardown_queueMoves (n : Host) (supervisor : Option Host) : QueueMoves s (s.teardown n supervisor) := by
  have claims : QueueMoves s (s.dismissClaims n) := .of_same rfl
  have offers : QueueMoves (s.dismissClaims n) ((s.dismissClaims n).endOffersTo n) :=
    .of_received fun k => ⟨_, received_endOffersTo n _ k⟩
  have ends : QueueMoves ((s.dismissClaims n).endOffersTo n) (s.shutOut n) :=
    .foldl (fun t l => endLease_queueMoves t l .teardown) _ _
  have cleared : QueueMoves (s.shutOut n) (((s.shutOut n).unsubscribeAll n).updateQueue n fun _ =>
      EventQueue.clear (s.shutOut n).timestamp supervisor) :=
    updateQueue_queueMoves ((s.shutOut n).unsubscribeAll n) n (.clear _ supervisor _)
  rw [teardown_eq]
  exact (((claims.trans offers).trans ends).trans cleared).trans (scan_queueMoves _)

theorem configureMirrorLine_queueMoves (caller : Host) (x : LineSettings) (source : Line) (invert : Bool) :
    QueueMoves s (s.configureMirrorLine caller x source invert) := by
  unfold State.configureMirrorLine
  refine .trans ?_ (present_queueMoves _ _)
  split
  · exact (raise_queueMoves s _ _).trans (writeLine_queueMoves _ _ _)
  · exact writeLine_queueMoves s _ _

theorem tickWaits_queueMoves (o : Owner) : QueueMoves s (s.tickWaits o) := .of_same rfl

theorem tick_queueMoves (order : List Line) : QueueMoves s (s.tick order) := by
  unfold State.tick
  split
  · exact .refl s
  · have counted : QueueMoves s s.countTick := .of_same rfl
    exact (counted.trans (tickWaits_queueMoves _ _)).trans (.foldl (fun t i => driveTest_queueMoves t i _) _ _)

theorem completePulse_queueMoves (i : Line) (revert : Level) : QueueMoves s (s.completePulse i revert) :=
  (driveLine_queueMoves s i _).trans (raiseHolder_queueMoves _ _ _)

theorem takeReport_queueMoves (i : Line) (v : Level) : QueueMoves s (s.takeReport i v) := by
  rw [takeReport_eq]
  exact .trans (.of_same (queues_followMirrors s i v)) (driveTest_queueMoves _ i v)

theorem takeArrival_queueMoves (i : Line) (v : Level) : QueueMoves s (s.takeArrival i v) :=
  .of_received fun n => ⟨_, received_takeArrival i v s n⟩

theorem sampleAll_queueMoves : QueueMoves s s.sampleAll := by
  obtain ⟨-, -, -, received⟩ := sampleAll_spec s
  exact .of_received fun n => ⟨_, received n⟩

/-- R136, R189: a device reset empties every queue. -/
theorem enterReset_queueMoves (n : Nat) : QueueMoves s { s.enterReset with freeCount := n } := by
  intro h
  have emptied : State.eventQueue { s.enterReset with freeCount := n } h = EventQueue.clear 0 none := eventQueue_reset h
  rw [emptied]
  exact .single (.clear 0 none _)

end

/-! ### Owners -/

/-- The body of a command makes moves of the event queues. -/
def BodyMovesQueues (body : List Byte → State → State × Reply) : Prop := ∀ ps s, QueueMoves s (body ps s).1

theorem ownerTakes_queueMoves {p : Host} {cmd : Cmd} {applies : List Byte → Bool}
    {body : List Byte → State → State × Reply} (h : BodyMovesQueues body) (s : State) :
    QueueMoves s (s.ownerTakes p cmd applies body) := by
  unfold State.ownerTakes
  split
  · exact h _ s
  · exact .refl s

theorem leaseControllerTakes_queueMoves {p : Host} {cmd : Cmd} {body : List Byte → State → State × Reply}
    (h : BodyMovesQueues body) (s : State) : QueueMoves s (s.leaseControllerTakes p cmd body) := by
  unfold State.leaseControllerTakes
  split
  · exact ownerTakes_queueMoves (fun ps t => h ps { t with lastServed := p }) s
  · exact .refl s

/-- R66: the lists that an event begins and ends are no event queues. -/
theorem asOneEvent_queueMoves {f : State → State} (hf : ∀ s, QueueMoves s (f s)) (s : State) :
    QueueMoves s (State.asOneEvent f s) :=
  have steps : QueueMoves s.opened (f s.opened) := hf s.opened
  steps

theorem takes_queueMoves {f : State → State} (hf : ∀ s, QueueMoves s (f s)) {s t : State}
    (h : s.takes f = .next t) : QueueMoves s t :=
  takes_keep (P := QueueMoves s) (fun u moves => moves.trans (hf u)) h (.refl s)

theorem portEvent_queueMoves {p : Host} {f : PortState → PortState} {s t : State} (h : s.portEvent p f = .next t) :
    QueueMoves s t :=
  takes_queueMoves (f := fun u => u.updatePort p fun q => f q.takeTimeout) (fun u => .refl u) h

/-! ### Bodies -/

section

variable (caller : Host)

theorem claimBody_movesQueues : BodyMovesQueues (State.claimBody caller) := by
  intro ps s
  unfold State.claimBody
  split
  · exact .refl s
  · split
    · exact grant_queueMoves s _ _ _
    · exact .of_same rfl
    · exact .refl s

theorem cancelBody_movesQueues : BodyMovesQueues (State.cancelBody caller) := by
  intro ps s
  unfold State.cancelBody
  split
  · exact .refl s
  · split
    · exact (removeClaims_queueMoves s _ none).trans (scan_queueMoves _)
    · exact .refl s

theorem releaseBody_movesQueues : BodyMovesQueues (State.releaseBody caller) := by
  intro ps s
  unfold State.releaseBody
  split
  · exact .refl s
  · exact endLeaseAndScan_queueMoves s _ _

theorem renewBody_movesQueues : BodyMovesQueues (State.renewBody caller) := by
  intro ps s
  unfold State.renewBody
  split <;> exact .of_same rfl

theorem queryLeaseBody_movesQueues : BodyMovesQueues State.queryLeaseBody := by
  intro ps s
  unfold State.queryLeaseBody
  split
  · exact .refl s
  · split <;> exact .refl s

theorem offerBody_movesQueues : BodyMovesQueues (State.offerBody caller) := by
  intro ps s
  unfold State.offerBody
  split
  · exact .refl s
  · exact .trans (.of_same rfl) (raise_queueMoves _ _ _)

theorem acceptBody_movesQueues : BodyMovesQueues (State.acceptBody caller) := by
  intro ps s
  unfold State.acceptBody
  split
  · exact .refl s
  · split
    · exact .refl s
    · exact ((transfer_queueMoves s _ _).trans (removeClaims_queueMoves _ _ _)).trans (scanIf_queueMoves _ _)

theorem declineBody_movesQueues : BodyMovesQueues (State.declineBody caller) := by
  intro ps s
  unfold State.declineBody
  split
  · exact .refl s
  · exact .trans (.of_same rfl) (raise_queueMoves _ _ _)

theorem revokeBody_movesQueues : BodyMovesQueues (State.revokeBody caller) := by
  intro ps s
  unfold State.revokeBody
  split
  · exact .refl s
  · split
    · exact .refl s
    · exact endLeaseAndScan_queueMoves s _ _

theorem reserveBody_movesQueues : BodyMovesQueues (State.reserveBody caller) := by
  intro ps s
  unfold State.reserveBody
  split
  · exact .refl s
  · split
    · exact .refl s
    · split
      · exact .refl s
      · rename_i a _
        have replaced : QueueMoves s (s.reserveLines (paramMask ps 0) a) := .of_same rfl
        exact (replaced.trans (removeClaims_queueMoves _ _ _)).trans (scanIf_queueMoves _ _)

theorem clearHostBody_movesQueues : BodyMovesQueues (State.clearHostBody caller) := by
  intro ps s
  unfold State.clearHostBody
  split
  · exact .refl s
  · split
    · exact .refl s
    · exact teardown_queueMoves s _ _

theorem setLevelBody_movesQueues : BodyMovesQueues (State.setLevelBody caller) := by
  intro ps s
  unfold State.setLevelBody
  split
  · exact .refl s
  · exact .foldl (fun t i => driveLine_queueMoves t i _) _ s

theorem configureBody_movesQueues : BodyMovesQueues (State.configureBody caller) := by
  intro ps s
  unfold State.configureBody
  split
  · exact .refl s
  · exact (writeLine_queueMoves s _ _).trans (present_queueMoves _ _)

theorem configureMirrorBody_movesQueues : BodyMovesQueues (State.configureMirrorBody caller) := by
  intro ps s
  unfold State.configureMirrorBody
  split
  · exact .refl s
  · split
    · exact .refl s
    · exact configureMirrorLine_queueMoves s caller _ _ _

theorem pulseBody_movesQueues : BodyMovesQueues (State.pulseBody caller) := by
  intro ps s
  unfold State.pulseBody
  split
  · exact .refl s
  · exact driveLine_queueMoves s _ _

theorem queryLineBody_movesQueues : BodyMovesQueues State.queryLineBody := by
  intro ps s
  unfold State.queryLineBody
  split <;> exact .refl s

theorem subscribeBody_movesQueues : BodyMovesQueues (State.subscribeBody caller) := by
  intro ps s
  rw [subscribeBody_frame]
  exact .of_same rfl

theorem unsubscribeBody_movesQueues : BodyMovesQueues (State.unsubscribeBody caller) := by
  intro ps s
  rw [unsubscribeBody_frame]
  exact .of_same rfl

theorem pollBody_movesQueues : BodyMovesQueues (State.pollBody caller) := by
  intro ps s
  unfold State.pollBody
  dsimp only
  rcases poll_moves ps s.timestamp (s.eventQueue caller) with kept | acknowledged
  · rw [kept, updateQueue_self]
    exact .refl s
  · rw [acknowledged]
    exact updateQueue_queueMoves s caller (.acknowledge _ _ _)

theorem attentionBody_movesQueues : BodyMovesQueues (State.attentionBody caller) := by
  intro ps s
  unfold State.attentionBody
  split
  · exact .refl s
  · exact updateQueue_queueMoves s caller (.attend _ _)

end

/-! ### Every command -/

/-- R136 to R151: every command and event makes moves of the event queues, one after another. -/
theorem exec_queueMoves {i : Instr} {s t : State} (h : exec i s = .next t) : QueueMoves s t := by
  cases i with
  | deviceReset cause =>
    obtain ⟨n, rfl⟩ | ⟨n, rfl⟩ := deviceReset_cases h
    · exact enterReset_queueMoves s n
    · exact .of_same rfl
  | deviceResetEnd x =>
    cases h
    split
    · exact .of_same (by rw [leaveReset_eq])
    · exact .refl s
  | millisecondTick order => exact takes_queueMoves (fun u => tick_queueMoves u order) h
  | settleExpiry i =>
    simp only [exec, execSettleExpiry] at h
    refine takes_queueMoves (fun u => ?_) h
    split
    · exact tick_queueMoves u [i]
    · exact .refl u
  | renewExpiry id =>
    simp only [exec, execRenewExpiry] at h
    refine takes_queueMoves (fun u => ?_) h
    split
    · exact asOneEvent_queueMoves (fun v => endLeaseAndScan_queueMoves v _ _) u
    · exact .refl u
  | waitLapse ticket =>
    simp only [exec, execWaitLapse] at h
    refine takes_queueMoves (fun u => ?_) h
    split
    · exact (removeClaims_queueMoves u _ _).trans (scan_queueMoves _)
    · exact .refl u
  | offerLapse id =>
    simp only [exec, execOfferLapse] at h
    refine takes_queueMoves (fun u => ?_) h
    split
    · rename_i l target _
      have activated : QueueMoves u (u.updateLease id Lease.activated) := .of_same rfl
      exact (activated.trans (raise_queueMoves _ l.holder _)).trans (raise_queueMoves _ target _)
    · exact .refl u
  | pulseCompletion i =>
    simp only [exec, execPulseCompletion] at h
    refine takes_queueMoves (fun u => ?_) h
    split
    · exact asOneEvent_queueMoves (fun v => completePulse_queueMoves v i _) u
    all_goals exact .refl u
  | busTimeout p | busError p c | startCondition p | stopCondition p | addressByte p b | commandFrame p bs scl
  | responseRead p as scl => exact portEvent_queueMoves h
  | claim p => exact takes_queueMoves (leaseControllerTakes_queueMoves (claimBody_movesQueues p)) h
  | cancelClaim p => exact takes_queueMoves (leaseControllerTakes_queueMoves (cancelBody_movesQueues p)) h
  | release p =>
    exact takes_queueMoves (asOneEvent_queueMoves (leaseControllerTakes_queueMoves (releaseBody_movesQueues p))) h
  | renew p => exact takes_queueMoves (leaseControllerTakes_queueMoves (renewBody_movesQueues p)) h
  | renewAll p => exact takes_queueMoves (leaseControllerTakes_queueMoves fun _ _ => .of_same rfl) h
  | queryLease p => exact takes_queueMoves (leaseControllerTakes_queueMoves queryLeaseBody_movesQueues) h
  | offer p => exact takes_queueMoves (leaseControllerTakes_queueMoves (offerBody_movesQueues p)) h
  | accept p => exact takes_queueMoves (leaseControllerTakes_queueMoves (acceptBody_movesQueues p)) h
  | decline p => exact takes_queueMoves (leaseControllerTakes_queueMoves (declineBody_movesQueues p)) h
  | revoke p =>
    exact takes_queueMoves (asOneEvent_queueMoves (leaseControllerTakes_queueMoves (revokeBody_movesQueues p))) h
  | reserve p => exact takes_queueMoves (leaseControllerTakes_queueMoves (reserveBody_movesQueues p)) h
  | detach p =>
    exact takes_queueMoves (asOneEvent_queueMoves
      (leaseControllerTakes_queueMoves fun _ u => teardown_queueMoves u p none)) h
  | clearHost p =>
    exact takes_queueMoves (asOneEvent_queueMoves (leaseControllerTakes_queueMoves (clearHostBody_movesQueues p))) h
  | setLevel p => exact takes_queueMoves (asOneEvent_queueMoves (ownerTakes_queueMoves (setLevelBody_movesQueues p))) h
  | configure p => exact takes_queueMoves (asOneEvent_queueMoves (ownerTakes_queueMoves (configureBody_movesQueues p))) h
  | configureMirror p =>
    exact takes_queueMoves (asOneEvent_queueMoves (ownerTakes_queueMoves (configureMirrorBody_movesQueues p))) h
  | pulse p => exact takes_queueMoves (asOneEvent_queueMoves (ownerTakes_queueMoves (pulseBody_movesQueues p))) h
  | readLines p => exact takes_queueMoves (ownerTakes_queueMoves fun _ u => .refl u) h
  | queryLine p => exact takes_queueMoves (ownerTakes_queueMoves queryLineBody_movesQueues) h
  | externalStateChange i x =>
    cases h
    split
    · exact .of_same rfl
    · have board : QueueMoves s (s.setExternal i x) := .of_same rfl
      exact board.trans (asOneEvent_queueMoves (fun v => writeLine_queueMoves v i (v.line i)) (s.setExternal i x))
  | filteredReport i =>
    simp only [exec, execFilteredReport] at h
    refine takes_queueMoves (fun u => ?_) h
    split
    · rename_i v rest _
      have taken : QueueMoves u { u with reports := rest } := .of_same rfl
      exact taken.trans (asOneEvent_queueMoves (fun w => takeReport_queueMoves w i v) _)
    · exact .refl u
  | arrival i =>
    simp only [exec, execArrival] at h
    refine takes_queueMoves (fun u => ?_) h
    split
    · rename_i v rest _
      have taken : QueueMoves u { u with arrivals := rest } := .of_same rfl
      exact taken.trans (takeArrival_queueMoves _ i v)
    · exact .refl u
  | sampleTick =>
    simp only [exec, execSampleTick] at h
    refine takes_queueMoves (fun u => ?_) h
    split
    · exact .refl u
    · exact (sampleAll_queueMoves u).trans (tickWaits_queueMoves _ _)
  | subscribe p =>
    simp only [exec, execSubscribe] at h
    refine takes_queueMoves (fun u => ?_) h
    split
    · exact ownerTakes_queueMoves (subscribeBody_movesQueues p) u
    · exact .refl u
  | unsubscribe p => exact takes_queueMoves (ownerTakes_queueMoves (unsubscribeBody_movesQueues p)) h
  | poll p => exact takes_queueMoves (ownerTakes_queueMoves (pollBody_movesQueues p)) h
  | attention p => exact takes_queueMoves (ownerTakes_queueMoves (attentionBody_movesQueues p)) h

/-- Settles O13: every command makes moves of the event queues, each move keeps the laws, and the queue of commands has no
part in them. -/
theorem stepKeepsEventQueues : Obligations.StepKeepsEventQueues := by
  intro s t h law
  unfold step at h
  split at h
  · cases h
    exact law
  · rename_i rest _
    have begun : QueueMoves s { s with pending := rest } := .of_same rfl
    exact (begun.trans (exec_queueMoves h)).law law

end Sys2Proof.Machine
end

section
/-! PROOF. One event at one port (R155, R176, R177): what a bus timeout leaves and what comes after it, the ends of a
transaction (R157, R163, R172, R175), and the address byte (R159, R171). -/

namespace Sys2Proof.Machine

/-! ### Events at a port -/

section

variable {s t : State} {p : Host} {f g : PortState → PortState}

/-- R155: an event at a port is what it makes of that port engine. -/
theorem updatePort_congr (same : f (s.port p) = g (s.port p)) : s.updatePort p f = s.updatePort p g := by
  unfold State.updatePort updateHost
  exact congrArg (fun q => { s with ports := s.ports.set p q }) same

theorem updatePort_self (stands : f (s.port p) = s.port p) : s.updatePort p f = s := by
  have ports : (s.updatePort p f).ports = s.ports := State.ports_ext fun q => by
    rw [State.port_updatePort]
    split
    · rename_i same
      rw [same, stands]
    · rfl
  exact congrArg (fun ps => { s with ports := ps }) ports

theorem updatePort_updatePort : (s.updatePort p g).updatePort p f = s.updatePort p fun q => f (g q) := by
  have ports : ((s.updatePort p g).updatePort p f).ports = (s.updatePort p fun q => f (g q)).ports :=
    State.ports_ext fun q => by
      simp only [State.port_updatePort, if_true]
      split <;> rfl
  exact congrArg (fun ps => { s with ports := ps }) ports

theorem portEvent_eq (f : PortState → PortState) (running : s.inReset = false) :
    s.portEvent p f = .next (s.updatePort p fun q => f q.takeTimeout) := takes_running running

theorem portEvent_congr (same : f (s.port p).takeTimeout = g (s.port p).takeTimeout) : s.portEvent p f = s.portEvent p g :=
  congrArg (fun t => Host.Outcome.next (if s.inReset then s else t))
    (updatePort_congr (f := fun q => f q.takeTimeout) (g := fun q => g q.takeTimeout) same)

/-- R155: an event that makes nothing of its port is not taken, in device reset too. -/
theorem portEvent_stands (time : (s.port p).timedOut = false) (stands : f (s.port p) = s.port p) :
    s.portEvent p f = .next s := by
  cases inReset : s.inReset with
  | true => exact takes_inReset inReset
  | false => exact (portEvent_eq f inReset).trans (congrArg _ (updatePort_self (by rw [takeTimeout_of_time time, stands])))

/-- R155: an event at a port at which no bus timeout has come reaches that port alone. -/
theorem portEvent_in_time (f : PortState → PortState) (running : s.inReset = false) (time : (s.port p).timedOut = false) :
    ∃ t, s.portEvent p f = .next t ∧ t = { s with ports := t.ports } ∧ (∀ q, q ≠ p → t.port q = s.port q)
      ∧ t.port p = f (s.port p) := by
  obtain ⟨t, event, frame, others, port⟩ := portEvent_running p f running
  exact ⟨t, event, frame, others, by rw [port, takeTimeout_of_time time]⟩

theorem portEvent_makes {q : PortState} (running : s.inReset = false) (time : (s.port p).timedOut = false)
    (makes : f (s.port p) = q) : ∃ t, s.portEvent p f = .next t ∧ t = { s with ports := t.ports }
      ∧ (∀ k, k ≠ p → t.port k = s.port k) ∧ t.port p = q :=
  makes ▸ portEvent_in_time f running time

/-- R155: nothing but the port changes, in device reset too. -/
theorem portEvent_frame (h : s.portEvent p f = .next t) : t = { s with ports := t.ports } := by
  by_cases inReset : s.inReset = true
  · cases (takes_inReset inReset).symm.trans h
    rfl
  · cases (portEvent_eq f (by simpa using inReset)).symm.trans h
    rfl

/-- R155, R176: two events at a port, one after the other, are the event that does at the port what both do; before the
second a bus timeout is taken that has come since the first. -/
theorem portEvent_portEvent {k : PortState → PortState} (h : s.portEvent p f = .next t)
    (both : ∀ q : PortState, q.timedOut = false → g (f q).takeTimeout = k q) : t.portEvent p g = s.portEvent p k := by
  cases inReset : s.inReset with
  | true =>
    cases (takes_inReset inReset).symm.trans h
    exact (takes_inReset inReset).trans (takes_inReset inReset).symm
  | false =>
    cases (portEvent_eq f inReset).symm.trans h
    rw [portEvent_eq k inReset, portEvent_eq (s := s.updatePort p _) g inReset, updatePort_updatePort]
    refine congrArg _ (updatePort_congr ?_)
    exact both _ (timedOut_takeTimeout _)

end

/-! ### Bus timeouts -/

section

variable {q : PortState}

/-- R176: a bus timeout has come in RX or TX where the timer has run to 0. -/
theorem timedOut_iff : q.timedOut = true ↔ (q.txn = .rx ∨ q.txn = .tx) ∧ q.timer = ⟨0, true⟩ := by
  obtain ⟨-, -, -, -, ⟨remaining, running⟩, -⟩ := q
  simp [PortState.timedOut, inTransaction_iff, and_assoc, and_comm (a := remaining = 0)]

/-- R176: in IDLE no bus timeout comes. -/
theorem timedOut_of_rest (rest : q.txn ≠ .rx ∧ q.txn ≠ .tx) : q.timedOut = false := by
  rw [← Bool.not_eq_true, timedOut_iff]
  exact fun ⟨active, _⟩ => active.elim rest.1 rest.2

/-- R163, R172, R177: what is left of a port when its transaction ends. -/
theorem drop_eq (next : Txn) (q : PortState) : q.drop next = { q with
    txn := next, crc := none, image := none, timer := ⟨0, false⟩, ack := .absent, sda := .released
    buffer := if q.txn = .rx then [] else q.buffer } := by
  unfold PortState.drop
  split <;> rfl

/-- R177: a transaction ends once, whether a bus timeout came before the event or not. -/
theorem drop_takeTimeout (next : Txn) (q : PortState) : q.takeTimeout.drop next = q.drop next := by
  cases time : q.timedOut with
  | false => rw [takeTimeout_of_time time]
  | true =>
    rw [takeTimeout_of_timedOut time, drop_eq, drop_eq, drop_eq]
    simp

/-- R176: a millisecond tick takes a bus timeout that has come, so that it counts the same after it. -/
theorem tick_takeTimeout (q : PortState) : q.takeTimeout.tick = q.tick := by
  unfold PortState.tick
  rw [takeTimeout_of_time (timedOut_takeTimeout q)]

end

section

variable {s : State} {p : Host}

theorem busTimeout_eq (running : s.inReset = false) : exec (.busTimeout p) s = .next (s.updatePort p PortState.takeTimeout) :=
  portEvent_eq id running

/-- R176: an event at a port is the same after the bus timeout that has come there (log entry 14). -/
theorem portEvent_updatePort_takeTimeout (f : PortState → PortState) (running : s.inReset = false) :
    s.portEvent p f = (s.updatePort p PortState.takeTimeout).portEvent p f :=
  (portEvent_portEvent (f := id) (busTimeout_eq running) fun _ time => congrArg f (takeTimeout_of_time time)).symm

/-- R70: a bus timeout has no part in which commands wait for an owner. -/
theorem overdue_updatePort_takeTimeout (o : Owner) :
    (s.updatePort p PortState.takeTimeout).overdue o = s.overdue o := by
  have waits : ∀ q : PortState, q.takeTimeout.waitsFor o = q.waitsFor o := fun q => by
    simp only [PortState.waitsFor, (takeTimeout_slot q).1]
  unfold State.overdue
  refine congrArg allHosts.any (funext fun q => ?_)
  rw [State.port_updatePort]
  split
  · rename_i same
    rw [same, waits, (takeTimeout_slot _).2]
  · rfl

/-- R176: a millisecond tick counts the same after the bus timeout that has come (log entry 14). -/
theorem countTick_updatePort_takeTimeout : (s.updatePort p PortState.takeTimeout).countTick = s.countTick := by
  have counted : ∀ (u : State) (q : Host), u.countTick.port q = (u.port q).tick := fun u q =>
    mapTable_getElem PortState.tick u.ports q
  have ports : (s.updatePort p PortState.takeTimeout).countTick.ports = s.countTick.ports := State.ports_ext fun q => by
    rw [counted, counted, State.port_updatePort]
    split
    · rename_i same
      rw [same, tick_takeTimeout]
    · rfl
  exact congrArg (fun ps => { s.countTick with ports := ps }) ports

/-- R70, R176: a millisecond tick that is taken is the same after the bus timeout that has come (log entry 14). -/
theorem millisecondTick_updatePort_takeTimeout (order : List Line) (running : s.inReset = false)
    (free : s.overdue .lineMatrix = false) :
    exec (.millisecondTick order) s = exec (.millisecondTick order) (s.updatePort p PortState.takeTimeout) := by
  have free' : (s.updatePort p PortState.takeTimeout).overdue .lineMatrix = false := by
    rw [overdue_updatePort_takeTimeout, free]
  have meaning : ∀ u : State, u.inReset = false → exec (.millisecondTick order) u = .next (u.tick order) :=
    fun _ => takes_running
  rw [meaning s running, meaning (s.updatePort p _) running, tick_eq free, tick_eq free', countTick_updatePort_takeTimeout]

/-! ### The end of a transaction -/

/-- R163, R172, R175, R177: an event that ends the transaction at its port. -/
theorem portEvent_ends {f : PortState → PortState} {next : Txn} {acks : List Bool} (running : s.inReset = false)
    (ends : f (s.port p).takeTimeout = { (s.port p).drop next with acks := acks }) :
    ∃ t, s.portEvent p f = .next t ∧ t = { s with ports := t.ports } ∧ (∀ q, q ≠ p → t.port q = s.port q)
      ∧ t.port p = { s.port p with
          txn := next, crc := none, image := none, timer := ⟨0, false⟩, ack := .absent, sda := .released
          acks := (t.port p).acks
          buffer := if (s.port p).txn = .rx then [] else (s.port p).buffer } := by
  obtain ⟨t, event, frame, others, port⟩ := portEvent_running p f running
  refine ⟨t, event, frame, others, ?_⟩
  rw [port, ends, drop_eq]

end

/-- Settles O56: a condition drops what a bus timeout before it would have dropped, and every event at the port, and the
tick, takes the bus timeout first. -/
theorem conditionsAndTimeoutEndTheTransaction : Obligations.ConditionsAndTimeoutEndTheTransaction := by
  intro s p running
  have start : (s.port p).takeTimeout.condition .start = { (s.port p).drop .addressing with acks := [] } := by
    rw [PortState.condition, drop_takeTimeout]
  have stop : (s.port p).takeTimeout.condition .stop =
      { (s.port p).drop .waiting with acks := ((s.port p).drop .waiting).acks } := drop_takeTimeout .waiting _
  refine ⟨fun i next h => ?_, fun early => ?_, fun t h i event => ?_⟩
  · rcases h with ⟨rfl, rfl⟩ | ⟨rfl, rfl⟩ | ⟨rfl, rfl⟩ | ⟨rfl, rfl⟩ | ⟨rfl, rfl, active, zero⟩
    · exact portEvent_ends running start
    · exact portEvent_ends running stop
    · exact portEvent_ends running start
    · exact portEvent_ends running stop
    · exact portEvent_ends (f := id) (acks := ((s.port p).drop .aside).acks) running
        (takeTimeout_of_timedOut (timedOut_iff.mpr ⟨active, zero⟩))
  · refine portEvent_stands ?_ rfl
    rw [← Bool.not_eq_true, timedOut_iff]
    tauto
  · rw [busTimeout_eq running] at h
    cases h
    rcases event with rfl | rfl | ⟨c, rfl⟩ | ⟨b, rfl⟩ | ⟨bytes, scl, rfl⟩ | ⟨answers, scl, rfl⟩ | ⟨order, rfl, free⟩
    · exact portEvent_updatePort_takeTimeout _ running
    · exact portEvent_updatePort_takeTimeout _ running
    · exact portEvent_updatePort_takeTimeout _ running
    · exact portEvent_updatePort_takeTimeout _ running
    · exact portEvent_updatePort_takeTimeout _ running
    · exact portEvent_updatePort_takeTimeout _ running
    · exact millisecondTick_updatePort_takeTimeout order running free

/-! ### Address bytes -/

/-- R156, R159: an address byte is the bus address and a direction bit. -/
theorem eq_addressOf_iff {b : Byte} {a : BitVec 7} {read : Bool} :
    b = addressOf a read ↔ b.extractLsb' 1 7 = a ∧ b.getLsbD 0 = read := by
  have bit : ∀ k, (addressOf a read).getLsbD k = if k < 1 then k == 0 && read else a.getLsbD (k - 1) := fun k => by
    refine (BitVec.getLsbD_append (x := a)).trans ?_
    cases read <;> split <;> simp_all
  constructor
  · rintro rfl
    refine ⟨BitVec.eq_of_getLsbD_eq fun k hk => ?_, (bit 0).trans (by simp)⟩
    rw [BitVec.getLsbD_extractLsb', bit]
    simp [hk]
  · rintro ⟨rfl, rfl⟩
    refine BitVec.eq_of_getLsbD_eq fun k hk => ?_
    rw [bit]
    cases k with
    | zero => simp
    | succ k =>
      rw [if_neg (by omega), BitVec.getLsbD_extractLsb', Nat.add_comm 1]
      simp [Nat.lt_of_succ_lt_succ hk]

section

variable {q : PortState} {a : BitVec 7} {b : Byte}

theorem addressByte_other (addressing : q.txn = .addressing) (other : b.extractLsb' 1 7 ≠ a) :
    q.addressByte a b = q.idle .aside := by
  have differs : ∀ read, b ≠ addressOf a read := fun read same => other (eq_addressOf_iff.mp same).1
  rw [PortState.addressByte, if_pos addressing, if_neg (differs true), if_neg (differs false)]

theorem addressByte_addressed {read : Bool} (addressing : q.txn = .addressing) (own : b.extractLsb' 1 7 = a)
    (direction : b.getLsbD 0 = read) : q.addressByte a b = q.addressed read b := by
  have same : b = addressOf a read := eq_addressOf_iff.mpr ⟨own, direction⟩
  rw [PortState.addressByte, if_pos addressing]
  cases read with
  | true => rw [if_pos same]
  | false => rw [if_neg fun read => Bool.noConfusion ((eq_addressOf_iff.mp read).2.symm.trans direction), if_pos same]

/-- R171: an address byte leaves the slot and the guard. -/
theorem addressByte_slot (q : PortState) (a : BitVec 7) (b : Byte) :
    (q.addressByte a b).slot = q.slot ∧ (q.addressByte a b).repeatGuard = q.repeatGuard := by
  unfold PortState.addressByte PortState.addressed
  repeat' split
  all_goals exact ⟨rfl, rfl⟩

/-- R159: a write is refused while a command waits. -/
theorem addressed_write_pending (pending : q.Waits) :
    q.addressed false b = { q.idle .aside with acks := q.acks ++ [false] } := by
  obtain ⟨tag, cmd, slot⟩ := pending
  simp [PortState.addressed, slot]

/-- R159: any other write enters RX. -/
theorem addressed_write (free : ¬ q.Waits) : q.addressed false b = { q with
    txn := .rx, buffer := [], crc := some (crcOf [b]), timer := BusTimer.entry, ack := .decided, sda := .released
    acks := q.acks ++ [true] } := by
  unfold PortState.addressed
  cases slot : q.slot with
  | pending tag cmd => exact absurd ⟨tag, cmd, slot⟩ free
  | empty | ready => rfl

end

/-- Settles O57: the address byte of another part, a write to a port that waits, another write, and a read. -/
theorem addressByteIsJudged : Obligations.AddressByteIsJudged := by
  refine ⟨fun s p b time other => portEvent_stands time (if_neg other), fun s p b running addressing => ?_⟩
  have time := timedOut_of_rest (q := s.port p) (by simp [addressing])
  obtain ⟨t, event, frame, others, port⟩ := portEvent_in_time (PortState.addressByte s.busAddress b) running time
  refine ⟨t, event, frame, others, ?_⟩
  rw [port]
  refine ⟨?_, ?_, fun other => ?_, fun own write pending => ?_, fun own write free => ?_, fun own read => ?_⟩
  · exact (addressByte_slot _ _ _).1
  · exact (addressByte_slot _ _ _).2
  · rw [addressByte_other addressing other]
    exact ⟨rfl, rfl, rfl, rfl⟩
  · rw [addressByte_addressed addressing own write, addressed_write_pending pending]
    exact ⟨rfl, rfl, rfl, rfl⟩
  · rw [addressByte_addressed addressing own write, addressed_write fun ⟨tag, cmd, slot⟩ => free tag cmd slot]
    exact ⟨rfl, rfl, rfl, rfl, rfl, rfl⟩
  · rw [addressByte_addressed addressing own read]
    refine ⟨rfl, rfl, rfl, rfl, rfl, slotBytes (s.port p).slot, rfl, ?_⟩
    cases (s.port p).slot <;> rfl

end Sys2Proof.Machine
end

section
/-! PROOF. Edges of SCL (R158, R176; log entry 13): what they reach outside TX, the bus timer after them, and the phases of an
ACK at a port that takes bytes and at one that sends them. -/

namespace Sys2Proof.Machine

/-! ### Phases -/

/-- R158, R176: the port at another phase of its clock: what edges of SCL reach outside TX. -/
def PortState.phase (timer : BusTimer) (ack : Acknowledge) (sda : Sda) (q : PortState) : PortState :=
  { q with timer := timer, ack := ack, sda := sda }

/-- R158, R176: `r` is the port at some phase; outside a transaction the bus timer stands. -/
def PortState.Phased (q r : PortState) : Prop :=
  ∃ timer ack sda, r = q.phase timer ack sda ∧ (q.inTransaction = false → timer = q.timer)

section

variable {q r u : PortState}

theorem PortState.Phased.refl (q : PortState) : q.Phased q := ⟨q.timer, q.ack, q.sda, rfl, fun _ => rfl⟩

theorem PortState.Phased.trans (h : q.Phased r) (k : r.Phased u) : q.Phased u := by
  obtain ⟨timer, ack, sda, rfl, stands⟩ := h
  obtain ⟨timer', ack', sda', rfl, stands'⟩ := k
  exact ⟨timer', ack', sda', rfl, fun rest => (stands' rest).trans (stands rest)⟩

theorem fall_phased (q : PortState) : q.Phased q.fall := by
  have timer : q.inTransaction = false → q.fallTimer = q.timer := fun rest => by simp [PortState.fallTimer, rest]
  by_cases decided : q.ack = .decided
  · exact ⟨_, _, _, fall_of_decided decided, timer⟩
  · exact ⟨_, _, _, fall_of_shown decided, timer⟩

theorem rise_phased (receives : q.txn ≠ .tx) : q.Phased q.rise := by
  refine ⟨q.riseTimer, q.rise.ack, q.sda, ?_, fun rest => by simp [PortState.riseTimer, rest]⟩
  unfold PortState.rise
  rw [if_neg receives]
  cases ack : q.ack <;> rfl

theorem leave_phased (scl : Scl) (q : PortState) : q.Phased (q.leave scl) := by
  cases scl
  · exact fall_phased q
  · exact .refl q

theorem edge_phased (scl : Scl) (receives : q.txn ≠ .tx) : q.Phased (q.edge scl) := by
  have rise := rise_phased receives
  unfold PortState.edge
  split
  · split
    · exact .refl q
    · cases scl
      · exact rise.trans (fall_phased _)
      · exact rise
  · exact leave_phased scl q

end

/-! ### The bus timer after an edge -/

section

variable {q : PortState}

/-- R176: after an edge the bus timer is set or stands, so that no bus timeout has come. -/
theorem timedOut_of_timer (timer : q.inTransaction = true → q.timer ≠ ⟨0, true⟩) : q.timedOut = false := by
  rw [← Bool.not_eq_true, timedOut_iff]
  exact fun ⟨active, zero⟩ => timer (inTransaction_iff.mpr active) zero

theorem fall_timer (q : PortState) : q.fall.inTransaction = q.inTransaction ∧ q.fall.timer = q.fallTimer := by
  by_cases decided : q.ack = .decided
  · rw [fall_of_decided decided]
    exact ⟨rfl, rfl⟩
  · rw [fall_of_shown decided]
    exact ⟨rfl, rfl⟩

theorem rise_timer (q : PortState) : q.rise.inTransaction = q.inTransaction ∧ q.rise.timer = q.riseTimer := by
  unfold PortState.rise
  cases q.ack <;> exact ⟨rfl, rfl⟩

theorem timedOut_fall (q : PortState) : q.fall.timedOut = false := by
  obtain ⟨same, timer⟩ := fall_timer q
  refine timedOut_of_timer fun active => ?_
  rw [timer, PortState.fallTimer, if_pos (same ▸ active)]
  simp [busTimeoutMs]

theorem timedOut_rise (q : PortState) : q.rise.timedOut = false := by
  obtain ⟨same, timer⟩ := rise_timer q
  refine timedOut_of_timer fun active => ?_
  rw [timer, PortState.riseTimer, if_pos (same ▸ active)]
  simp

theorem timedOut_leave (scl : Scl) (time : q.timedOut = false) : (q.leave scl).timedOut = false := by
  cases scl
  · exact timedOut_fall q
  · exact time

theorem timedOut_edge (scl : Scl) (time : q.timedOut = false) : (q.edge scl).timedOut = false := by
  unfold PortState.edge
  split
  · split
    · exact time
    · cases scl
      · exact timedOut_fall _
      · exact timedOut_rise q
  · exact timedOut_leave scl time

end

/-! ### A port that takes bytes -/

/-- R159, R160: the port takes the bytes of the host, in RX, or stands aside. -/
def PortState.Listens (q : PortState) : Prop := q.txn = .rx ∨ q.txn = .aside

section

variable {q : PortState}

theorem PortState.Listens.not_tx (h : q.Listens) : q.txn ≠ .tx := by
  rcases h with txn | txn <;> simp [txn]

/-- R158: SDA stays released at a port that stands aside with no ACK under way. -/
theorem leave_of_quiet (scl : Scl) (aside : q.txn = .aside) (ack : q.ack = .absent) (sda : q.sda = .released) :
    q.leave scl = q := by
  have timer : q.fallTimer = q.timer := by simp [PortState.fallTimer, PortState.inTransaction, aside]
  have shown : q.fallenSda = .released := by simp [PortState.fallenSda, aside]
  cases scl
  · rw [PortState.leave, fall_of_shown (by simp [ack]), timer, shown, ← ack, ← sda]
  · rfl

/-- R158, R162: SDA after the last byte of a frame that is accepted. -/
theorem leave_of_accepted (scl : Scl) (aside : q.txn = .aside) (ack : q.ack = .decided) (sda : q.sda = .released) :
    q.leave scl = { q with
      ack := match scl with | .low => .driven | .high => .decided
      sda := match scl with | .low => .low | .high => .released } := by
  have timer : q.fallTimer = q.timer := by simp [PortState.fallTimer, PortState.inTransaction, aside]
  cases scl
  · rw [PortState.leave, fall_of_decided ack, timer]
  · rw [PortState.leave, ← ack, ← sda]

/-- R158: the ACK goes through its phases one edge at a time. -/
theorem after_high_low (a : Acknowledge) : (a.after .high).after .low = a.after .low := by cases a <;> rfl

theorem after_high_decided (a : Acknowledge) : a.after .high = .decided ↔ a = .decided := by cases a <;> decide

/-- R158, R176: a falling edge at a port that listens. -/
theorem fall_of_listens (listens : q.Listens) : q.fall = { q with
    timer := if q.txn = .aside then q.timer else ⟨25, true⟩
    ack := q.ack.after .low
    sda := if q.ack = .decided then .low else .released } := by
  have timer : q.fallTimer = if q.txn = .aside then q.timer else ⟨25, true⟩ := by
    rcases listens with txn | txn <;> simp [PortState.fallTimer, PortState.inTransaction, txn, busTimeoutMs]
  have shown : q.fallenSda = .released := by
    rcases listens with txn | txn <;> simp [PortState.fallenSda, txn]
  cases ack : q.ack with
  | decided =>
    rw [fall_of_decided ack, timer]
    rfl
  | absent | driven | clocked =>
    rw [fall_of_shown (by simp [ack]), timer, shown]
    rfl

/-- R158, R176: a rising edge at a port that listens. -/
theorem rise_of_listens (listens : q.Listens) : q.rise = { q with
    timer := if q.txn = .aside then q.timer else ⟨q.timer.remaining, false⟩, ack := q.ack.after .high } := by
  have timer : q.riseTimer = if q.txn = .aside then q.timer else ⟨q.timer.remaining, false⟩ := by
    rcases listens with txn | txn <;> simp [PortState.riseTimer, PortState.inTransaction, txn]
  rw [← timer]
  unfold PortState.rise
  rw [if_neg listens.not_tx]
  cases ack : q.ack <;> rfl

/-- R158, R176: a falling edge does not see the rising edge before it. -/
theorem fall_rise (listens : q.Listens) : q.rise.fall = q.fall := by
  have listens' : q.rise.Listens := by
    rw [rise_of_listens listens]
    exact listens
  rw [fall_of_listens listens', fall_of_listens listens, rise_of_listens listens]
  simp only [after_high_low, after_high_decided]
  split <;> rfl

/-- R158, R176: SCL low at a port that listens. -/
theorem sclLow_of_listens (listens : q.Listens) : q.sclLow = true ↔
    q.ack = .driven ∨ q.ack = .absent ∧ q.txn ≠ .aside ∧ q.timer.running = true := by
  have live : q.inTransaction = true ↔ q.txn ≠ .aside := by
    rw [inTransaction_iff]
    rcases listens with txn | txn <;> simp [txn]
  unfold PortState.sclLow
  split <;> rename_i ack <;> simp [ack, live]

/-- R158, R176: an edge of SCL alone at a port that listens: it ends low after a falling edge, and high after a rising one or
where it was high. -/
theorem edge_low (listens : q.Listens) : q.edge .low = q.fall := by
  simp [PortState.edge, PortState.awaitsAnswer, listens.not_tx, fall_rise listens]

theorem edge_high (listens : q.Listens) : q.edge .high = if q.sclLow then q.rise else q := by
  simp [PortState.edge, PortState.awaitsAnswer, listens.not_tx]

/-- R158, R176: an edge of SCL at a port that listens. -/
theorem edge_of_listens (scl : Scl) (listens : q.Listens) : q.edge scl = { q with
    timer :=
      if q.txn = .aside ∨ scl = .high ∧ (q.ack = .decided ∨ q.ack = .clocked) then q.timer
      else match scl with
        | .low => ⟨25, true⟩
        | .high => ⟨q.timer.remaining, false⟩
    ack := q.ack.after scl
    sda := match scl with
      | .low => if q.ack = .decided then .low else .released
      | .high => q.sda } := by
  cases scl with
  | low =>
    rw [edge_low listens, fall_of_listens listens]
    simp
  | high =>
    rw [edge_high listens]
    split
    · rename_i low
      rw [rise_of_listens listens]
      rcases (sclLow_of_listens listens).mp low with ack | ⟨ack, -⟩ <;> simp [ack]
    · rename_i high
      rw [sclLow_of_listens listens] at high
      have ack : q.ack.after .high = q.ack := by
        cases ack : q.ack with
        | driven => exact absurd (.inl ack) high
        | absent | decided | clocked => rfl
      have stands : ¬ (q.txn = .aside ∨ q.ack = .decided ∨ q.ack = .clocked) → q.timer.running = false := fun live => by
        cases ack : q.ack <;> simp_all
      rw [ack]
      simp only [true_and]
      split
      · rfl
      · rename_i live
        rw [← stands live]

end

/-! ### A port that sends bytes -/

section

variable {q : PortState} {bytes : List Byte} {k bit : Nat}

/-- R158, R176: a falling edge in TX with no ACK to drive shows the bit reached. -/
theorem fall_of_tx (tx : q.txn = .tx) (ack : q.ack ≠ .decided) (image : q.image = some ⟨bytes, k, bit⟩) :
    q.fall = { q with timer := ⟨25, true⟩, ack := .absent, sda := bitOnSda (bytes.getD k 0xFF) bit } := by
  have timer : q.fallTimer = ⟨25, true⟩ := by simp [PortState.fallTimer, PortState.inTransaction, tx, busTimeoutMs]
  have shown : q.fallenSda = bitOnSda (bytes.getD k 0xFF) bit := by
    rw [← sentBit_eq]
    simp only [PortState.fallenSda, tx, image]
    rfl
  rw [fall_of_shown ack, timer, shown]

theorem ack_self {a : Acknowledge} (ack : q.ack = a) : { q with ack := a } = q := by rw [← ack]

/-- R158, R176: an edge while the port's own ACK of the read address is under way. -/
theorem edge_of_tx_ack (scl : Scl) (tx : q.txn = .tx) (ack : q.ack ≠ .absent) (image : q.image = some ⟨bytes, k, bit⟩) :
    q.edge scl = { q with
      timer := match scl with
        | .low => ⟨25, true⟩
        | .high => if q.ack = .driven then ⟨q.timer.remaining, false⟩ else q.timer
      ack := q.ack.after scl
      sda := match scl with
        | .low => if q.ack = .decided then .low else bitOnSda (bytes.getD k 0xFF) bit
        | .high => q.sda } := by
  have free : q.awaitsAnswer = false := by simp [PortState.awaitsAnswer, ack]
  have timer : q.riseTimer = ⟨q.timer.remaining, false⟩ := by simp [PortState.riseTimer, PortState.inTransaction, tx]
  have sets : q.fallTimer = ⟨25, true⟩ := by simp [PortState.fallTimer, PortState.inTransaction, tx, busTimeoutMs]
  cases phase : q.ack with
  | absent => exact absurd phase ack
  | decided =>
    cases scl
    · simp [PortState.edge, PortState.sclLow, phase, fall_of_decided phase, sets, Acknowledge.after]
    · simpa [PortState.edge, PortState.sclLow, phase, Acknowledge.after] using (ack_self phase).symm
  | clocked =>
    cases scl
    · simp [PortState.edge, PortState.sclLow, phase, fall_of_tx tx (by simp [phase]) image, Acknowledge.after]
    · simpa [PortState.edge, PortState.sclLow, phase, Acknowledge.after] using (ack_self phase).symm
  | driven =>
    have rise := rise_of_driven phase
    have fall : q.rise.fall = { q with timer := ⟨25, true⟩, ack := .absent, sda := bitOnSda (bytes.getD k 0xFF) bit } := by
      rw [rise]
      exact fall_of_tx tx (by simp) image
    cases scl
    · simp [PortState.edge, PortState.sclLow, phase, free, fall, Acknowledge.after]
    · simp [PortState.edge, PortState.sclLow, phase, free, rise, timer, Acknowledge.after]

end

end Sys2Proof.Machine
end

section
/-! PROOF. Command frames (R158 to R162, R166, R167): the bytes that are stored, the frame that is accepted, the frames that
are discarded, and the frames that come in pieces. -/

namespace Sys2Proof.Machine

/-! ### The bytes of the host -/

section

variable {p : Host} {sup : Bool} {q r : PortState} {b : Byte}

/-- R160: a byte that has a place in the frame: the command, the tag, a length of at most 32, or a parameter. -/
def PortState.HasRoom (q : PortState) (b : Byte) : Prop :=
  q.buffer.length < 2 ∨ q.buffer.length = 2 ∧ b.toNat ≤ 32
    ∨ 2 < q.buffer.length ∧ q.buffer.length < 3 + (q.buffer.getD 2 0).toNat

/-- R160: such a byte is stored. -/
theorem rxByte_of_room (rx : q.txn = .rx) (room : q.HasRoom b) : q.rxByte p sup b = q.store b := by
  unfold PortState.rxByte
  rcases room with short | ⟨two, count⟩ | ⟨more, room⟩
  · simp [rx, short]
  · simp [rx, two, count]
  · rw [if_pos rx, if_neg (by omega), if_neg (by omega), if_pos room]

/-- R161: a length above 32 is refused. -/
theorem rxByte_of_long (rx : q.txn = .rx) (two : q.buffer.length = 2) (long : 32 < b.toNat) :
    q.rxByte p sup b = q.reject := by
  simp [PortState.rxByte, rx, two, Nat.not_le.mpr long]

/-- R162: after the last parameter comes the CRC byte. -/
theorem rxByte_of_whole (rx : q.txn = .rx) (more : 2 < q.buffer.length)
    (whole : q.buffer.length = 3 + (q.buffer.getD 2 0).toNat) : q.rxByte p sup b = q.crcReceived p sup b := by
  rw [PortState.rxByte, if_pos rx, if_neg (by omega), if_neg (by omega), if_neg (by omega)]

/-- R159: out of RX a byte is not acknowledged. -/
theorem rxByte_of_rest (rest : q.txn ≠ .rx) :
    q.rxByte p sup b = { q with ack := .absent, sda := .released, acks := q.acks ++ [false] } := if_neg rest

/-- R160 to R162: a byte is stored, or the port stands aside after it. -/
theorem rxByte_cases (listens : q.Listens) :
    q.txn = .rx ∧ q.rxByte p sup b = q.store b ∨ (q.rxByte p sup b).txn = .aside := by
  have rejected : q.txn = .rx → q.reject.txn = .aside := fun _ => by rw [PortState.reject, drop_eq]
  have judged : q.txn = .rx → (q.crcReceived p sup b).txn = .aside := fun rx => by
    unfold PortState.crcReceived
    split
    · exact txn_accept _ _ _
    · exact rejected rx
  rcases listens with rx | aside
  · unfold PortState.rxByte
    simp only [rx, if_true, true_and]
    repeat' split
    · exact .inl rfl
    · exact .inl rfl
    · exact .inr (rejected rx)
    · exact .inl rfl
    · exact .inr (judged rx)
  · exact .inr (by rw [rxByte_of_rest (by simp [aside]), aside])

/-- R160, R176: the byte sets the bus timer, or ends the transaction. -/
theorem rxByte_listens (listens : q.Listens) :
    (q.rxByte p sup b).Listens ∧ (q.rxByte p sup b).timedOut = false := by
  rcases rxByte_cases (p := p) (sup := sup) (b := b) listens with ⟨rx, stored⟩ | aside
  · rw [stored]
    exact ⟨.inl rx, by simp [PortState.timedOut, PortState.store, BusTimer.entry]⟩
  · exact ⟨.inr aside, timedOut_of_rest (by simp [aside])⟩

theorem foldl_rxByte_listens (bytes : List Byte) (listens : q.Listens) (time : q.timedOut = false) :
    (bytes.foldl (PortState.rxByte p sup) q).Listens ∧ (bytes.foldl (PortState.rxByte p sup) q).timedOut = false := by
  induction bytes generalizing q with
  | nil => exact ⟨listens, time⟩
  | cons b bytes ih => exact ih (rxByte_listens listens).1 (rxByte_listens listens).2

/-- R158, R160: what a byte makes of a port does not see the edges before it. -/
theorem rxByte_phased (h : q.Phased r) (listens : q.Listens) : r.rxByte p sup b = q.rxByte p sup b := by
  obtain ⟨timer, ack, sda, rfl, stands⟩ := h
  rcases listens with rx | aside
  · unfold PortState.rxByte
    rw [if_pos rx, if_pos (show (q.phase timer ack sda).txn = .rx from rx)]
    rfl
  · have rest : q.txn ≠ .rx := by simp [aside]
    rw [stands (by simp [PortState.inTransaction, aside]), rxByte_of_rest rest]
    exact rxByte_of_rest rest

/-! ### A frame in pieces -/

theorem commandFrame_of_listens (listens : q.Listens) (bytes : List Byte) (scl : Scl) :
    q.commandFrame p sup bytes scl = q.receive p sup bytes scl := if_pos listens

/-- R158 to R162: a command frame at a port that listens is its bytes, and then edges of SCL. -/
theorem commandFrame_phased (listens : q.Listens) (bytes : List Byte) (scl : Scl) :
    (bytes.foldl (PortState.rxByte p sup) q).Phased (q.commandFrame p sup bytes scl) := by
  rw [commandFrame_of_listens listens]
  cases bytes with
  | nil => exact edge_phased scl listens.not_tx
  | cons b bytes => exact leave_phased scl _

theorem commandFrame_cons (listens : q.Listens) (b : Byte) (bytes : List Byte) (scl : Scl) :
    q.commandFrame p sup (b :: bytes) scl = ((b :: bytes).foldl (PortState.rxByte p sup) q).leave scl := if_pos listens

theorem commandFrame_listens (listens : q.Listens) (time : q.timedOut = false) (bytes : List Byte) (scl : Scl) :
    (q.commandFrame p sup bytes scl).Listens ∧ (q.commandFrame p sup bytes scl).timedOut = false := by
  obtain ⟨listens', time'⟩ := foldl_rxByte_listens (p := p) (sup := sup) bytes listens time
  refine ⟨?_, ?_⟩
  · obtain ⟨timer, ack, sda, phase, -⟩ := commandFrame_phased (p := p) (sup := sup) listens bytes scl
    rw [phase]
    exact listens'
  · cases bytes with
    | nil =>
      rw [commandFrame_of_listens listens]
      exact timedOut_edge scl time
    | cons b bytes =>
      rw [commandFrame_cons listens]
      exact timedOut_leave scl time'

/-- R158 to R162: the rest of a frame meets the port as the whole frame would. -/
theorem commandFrame_commandFrame (time : q.timedOut = false) (bytes : List Byte) {more : List Byte} (given : more ≠ [])
    (scl scl' : Scl) : (q.commandFrame p sup bytes scl').takeTimeout.commandFrame p sup more scl =
      q.commandFrame p sup (bytes ++ more) scl := by
  obtain ⟨b, more, rfl⟩ := List.exists_cons_of_ne_nil given
  by_cases listens : q.Listens
  · obtain ⟨listens', time'⟩ := commandFrame_listens (p := p) (sup := sup) listens time bytes scl'
    have next : (q.commandFrame p sup bytes scl').rxByte p sup b = (bytes.foldl (PortState.rxByte p sup) q).rxByte p sup b :=
      rxByte_phased (commandFrame_phased listens bytes scl') (foldl_rxByte_listens bytes listens time).1
    have whole : q.commandFrame p sup (bytes ++ b :: more) scl =
        ((bytes ++ b :: more).foldl (PortState.rxByte p sup) q).leave scl := by
      rw [commandFrame_of_listens listens, PortState.receive, if_neg (by simp)]
    rw [takeTimeout_of_time time', commandFrame_cons listens', whole, List.foldl_append, List.foldl_cons, List.foldl_cons,
      next]
  · have stands : ∀ bytes scl, q.commandFrame p sup bytes scl = q := fun _ _ => if_neg listens
    rw [stands, stands, takeTimeout_of_time time, stands]

/-! ### A frame up to its CRC byte -/

/-- R160, R161: the bytes of a frame before its CRC byte, or the first of them. -/
def PartOfFrame (frame : List Byte) : Prop :=
  3 ≤ frame.length → (frame.getD 2 0).toNat ≤ 32 ∧ frame.length ≤ 3 + (frame.getD 2 0).toNat

theorem PartOfFrame.hasRoom {bytes : List Byte} (part : PartOfFrame (q.buffer ++ b :: bytes)) : q.HasRoom b := by
  unfold PartOfFrame at part
  simp only [List.length_append, List.length_cons] at part
  rcases Nat.lt_trichotomy q.buffer.length 2 with short | two | more
  · exact .inl short
  · refine .inr (.inl ⟨two, ?_⟩)
    rw [List.getD_append_right _ _ _ _ (by omega), two] at part
    exact (part (by omega)).1
  · rw [List.getD_append _ _ _ _ more] at part
    obtain ⟨-, room⟩ := part (by omega)
    exact .inr (.inr ⟨more, by omega⟩)

/-- R160: the port with these bytes received: they are stored, taken into the CRC register and acknowledged. -/
def PortState.received (bytes : List Byte) (q : PortState) : PortState :=
  { q with
    buffer := q.buffer ++ bytes, crc := q.crc.map fun r => bytes.foldl crcByte r
    acks := q.acks ++ List.replicate bytes.length true }

/-- R160: bytes that have their places in the frame are received. -/
theorem foldl_rxByte_part {bytes : List Byte} (rx : q.txn = .rx) (part : PartOfFrame (q.buffer ++ bytes)) :
    (q.received bytes).Phased (bytes.foldl (PortState.rxByte p sup) q) := by
  induction bytes generalizing q with
  | nil => exact ⟨q.timer, q.ack, q.sda, by simp [PortState.received, PortState.phase], fun _ => rfl⟩
  | cons b bytes ih =>
    rw [List.foldl_cons, rxByte_of_room rx part.hasRoom]
    obtain ⟨timer, ack, sda, phase, -⟩ := ih (q := q.store b) rx (by simpa [PortState.store] using part)
    refine ⟨timer, ack, sda, ?_, fun rest => ?_⟩
    · rw [phase]
      simp [PortState.received, PortState.phase, PortState.store, List.replicate_succ, Function.comp_def]
    · simp [PortState.received, PortState.inTransaction, rx] at rest

theorem PartOfFrame.take {frame : List Byte} (part : PartOfFrame frame) (k : Nat) : PartOfFrame (frame.take k) := by
  intro long
  rw [List.length_take] at long ⊢
  obtain ⟨count, room⟩ := part (by omega)
  have same : (frame.take k).getD 2 0 = frame.getD 2 0 := by
    rw [List.getD_eq_getElem _ _ (by simp; omega), List.getD_eq_getElem _ _ (by omega), List.getElem_take]
  rw [same]
  exact ⟨count, by omega⟩

/-- R160, R162: the bytes of a whole frame before its CRC byte, and then the CRC byte. -/
theorem partOfFrame_whole (code tag : Byte) {count : Byte} {ps : List Byte} (short : count.toNat ≤ 32)
    (length : ps.length = count.toNat) : PartOfFrame (code :: tag :: count :: ps) :=
  fun _ => ⟨short, by simp only [List.length_cons, List.getD_cons_succ, List.getD_cons_zero]; omega⟩

theorem rxByte_crc {code tag count : Byte} {ps : List Byte} (rx : q.txn = .rx) (empty : q.buffer = [])
    (length : ps.length = count.toNat) :
    (q.received (code :: tag :: count :: ps)).rxByte p sup b =
      (q.received (code :: tag :: count :: ps)).crcReceived p sup b := by
  refine rxByte_of_whole rx ?_ ?_
  · simp [PortState.received, empty]
  · simp only [PortState.received, empty, List.nil_append, List.length_cons, List.getD_cons_succ, List.getD_cons_zero, length]
    omega

/-- R174: the CRC register after the bytes of a frame. -/
theorem received_crc {address : Byte} (bytes : List Byte) (crc : q.crc = some (crcOf [address])) :
    (q.received bytes).crc = some (crcOf (address :: bytes)) := by
  rw [PortState.received, crc]
  rfl

/-- R160: a frame in RX that stops before its CRC byte. -/
theorem commandFrame_part {bytes : List Byte} (rx : q.txn = .rx) (part : PartOfFrame (q.buffer ++ bytes)) (scl : Scl) :
    (q.received bytes).Phased (q.commandFrame p sup bytes scl) :=
  (foldl_rxByte_part rx part).trans (commandFrame_phased (.inl rx) bytes scl)

/-- R160: the byte after the first ones of a frame, and the bytes after it. -/
theorem commandFrame_part_cons {bytes : List Byte} (rx : q.txn = .rx) (part : PartOfFrame (q.buffer ++ bytes))
    (more : List Byte) (scl : Scl) : q.commandFrame p sup (bytes ++ b :: more) scl =
      (more.foldl (PortState.rxByte p sup) ((q.received bytes).rxByte p sup b)).leave scl := by
  have next : (bytes.foldl (PortState.rxByte p sup) q).rxByte p sup b = (q.received bytes).rxByte p sup b :=
    rxByte_phased (foldl_rxByte_part rx part) (.inl rx)
  rw [commandFrame_of_listens (.inl rx), PortState.receive, if_neg (by simp), List.foldl_append, List.foldl_cons, next]

/-! ### Frames that are discarded -/

/-- R159: out of RX no byte is acknowledged or stored. -/
theorem foldl_rxByte_rest (rest : q.txn ≠ .rx) (b : Byte) (bytes : List Byte) :
    (b :: bytes).foldl (PortState.rxByte p sup) q =
      { q with ack := .absent, sda := .released, acks := q.acks ++ List.replicate (bytes.length + 1) false } := by
  induction bytes generalizing q b with
  | nil => exact rxByte_of_rest rest
  | cons b' bytes ih =>
    rw [List.foldl_cons, rxByte_of_rest rest]
    refine (ih ?_ b').trans ?_
    · exact rest
    · simp [List.replicate_succ]

/-- R161, R162: after a byte that is refused none is acknowledged or stored. -/
theorem foldl_rxByte_reject (bytes : List Byte) : bytes.foldl (PortState.rxByte p sup) q.reject =
    { q.drop .aside with acks := q.acks ++ List.replicate (bytes.length + 1) false } := by
  have aside : (q.drop .aside).txn ≠ .rx := by simp [drop_eq]
  have refused : q.reject = (q.drop .aside).rxByte p sup 0 := by
    rw [rxByte_of_rest aside, PortState.reject, drop_eq]
  rw [refused, ← List.foldl_cons, foldl_rxByte_rest aside, drop_eq]

/-- R161 to R163: a byte that is refused after the first ones of a frame discards it with all that follow. -/
theorem commandFrame_discards {bytes : List Byte} (rx : q.txn = .rx) (part : PartOfFrame (q.buffer ++ bytes))
    (refused : (q.received bytes).rxByte p sup b = (q.received bytes).reject) (more : List Byte) (scl : Scl) :
    q.commandFrame p sup (bytes ++ b :: more) scl = { q.drop .aside with
      acks := q.acks ++ List.replicate bytes.length true ++ List.replicate (more.length + 1) false } := by
  rw [commandFrame_part_cons rx part, refused, foldl_rxByte_reject, drop_eq, drop_eq, leave_of_quiet scl rfl rfl rfl]
  simp [PortState.received, rx]

/-! ### Frames that are accepted -/

/-- R166: the accept of a frame reaches the slot, the guard and the note of a tick. -/
theorem accept_slotOnly (q : PortState) : q.accept p sup = { q with
    slot := (q.accept p sup).slot, repeatGuard := (q.accept p sup).repeatGuard, ticked := (q.accept p sup).ticked } := by
  unfold PortState.accept
  dsimp only
  repeat' split
  all_goals rfl

/-- R70, R166: no tick is noted yet of a command that waits after the accept. -/
theorem ticked_accept {tag : Byte} {cmd : Cmd} (pending : (q.accept p sup).slot = .pending tag cmd) :
    (q.accept p sup).ticked = false := by
  unfold PortState.accept at pending ⊢
  dsimp only at pending ⊢
  split at pending
  · rename_i repeats
    simp [PortState.isRepeat, pending] at repeats
  · rename_i other
    rw [if_neg other]
    split at pending
    · cases pending
    · split at pending
      · cases pending
      · split at pending
        · cases pending
        · rename_i short own
          simp only [short, own]
          rfl

section

variable {code tag count crc : Byte} {ps : List Byte}

/-- R155, R166: what the accept reads of a whole frame. -/
theorem accept_frame (buffer : q.buffer = code :: tag :: count :: (ps ++ [crc])) (length : ps.length = count.toNat) :
    q.accept p sup =
      if q.isRepeat tag code crc then q
      else
        match cmdOf code with
        | none => q.answer tag code crc .badCommand []
        | some cmd =>
          if !cmd.lengthOk ps then q.answer tag code crc .badLength []
          else if cmd = .identify then q.answer tag code crc .ok (identifyBytes p sup)
          else { q with slot := .pending tag cmd, repeatGuard := none, ticked := false } := by
  have last : frameCrc q.buffer = crc := by
    simp [frameCrc, buffer, ← length, Nat.add_comm 3]
  have params : q.params = ps := by
    simp [PortState.params, frameParams, buffer, ← length]
  rw [PortState.accept, last, params, buffer]
  rfl

/-- R166, R167, R178: the slot and the guard that the accept of a whole frame leaves. -/
theorem slot_accept_frame (buffer : q.buffer = code :: tag :: count :: (ps ++ [crc])) (length : ps.length = count.toNat) :
    ((q.accept p sup).slot, (q.accept p sup).repeatGuard) =
      if q.isRepeat tag code crc = true then (q.slot, q.repeatGuard)
      else
        match cmdOf code with
        | none => (.ready .badCommand tag code [], some ⟨tag, code, crc⟩)
        | some cmd =>
          if cmd.lengthOk ps = false then (.ready .badLength tag code [], some ⟨tag, code, crc⟩)
          else if cmd = .identify then (.ready .ok tag code (identifyBytes p sup), some ⟨tag, code, crc⟩)
          else (.pending tag cmd, none) := by
  rw [accept_frame buffer length]
  by_cases repeats : q.isRepeat tag code crc = true
  · rw [if_pos repeats, if_pos repeats]
  · rw [if_neg repeats, if_neg repeats]
    cases cmdOf code with
    | none => rfl
    | some cmd =>
      cases fits : cmd.lengthOk ps with
      | false => simp [fits, PortState.answer]
      | true =>
        simp only [fits, Bool.not_true, Bool.false_eq_true, Bool.true_eq_false, if_false]
        split <;> rfl

/-- R162: the port after the CRC byte of a frame that is right: it stands aside, with the frame to be judged. -/
def PortState.whole (frame : List Byte) (q : PortState) : PortState :=
  { q.idle .aside with buffer := frame, ack := .decided, acks := q.acks ++ List.replicate frame.length true }

/-- R162, R166: a right CRC byte ends the reception, and the frame is accepted. -/
theorem commandFrame_accepts {address : Byte} (rx : q.txn = .rx) (empty : q.buffer = [])
    (register : q.crc = some (crcOf [address])) (short : count.toNat ≤ 32) (length : ps.length = count.toNat)
    (right : crc = crcOf (address :: code :: tag :: count :: ps)) (scl : Scl) :
    q.commandFrame p sup (code :: tag :: count :: (ps ++ [crc])) scl =
      ((q.whole (code :: tag :: count :: (ps ++ [crc]))).accept p sup).leave scl := by
  have part : PartOfFrame (q.buffer ++ code :: tag :: count :: ps) := by
    rw [empty]
    exact partOfFrame_whole code tag short length
  have frame := commandFrame_part_cons (p := p) (sup := sup) (b := crc) rx part [] scl
  rw [rxByte_crc rx empty length, PortState.crcReceived, received_crc _ register, if_pos (congrArg some right.symm)] at frame
  refine frame.trans ?_
  simp [PortState.received, PortState.whole, PortState.idle, empty, List.replicate_succ']

end

end

/-- Settles O59: a refused byte drops the frame, and so does an event that ends the transaction (O56). -/
theorem discardedFramesLeaveNoTrace : Obligations.DiscardedFramesLeaveNoTrace := by
  intro s p code tag length bytes more scl running time rx empty crc
  have parts : ∀ {frame}, PartOfFrame frame → PartOfFrame ((s.port p).buffer ++ frame) := fun part => by
    rw [empty]
    exact part
  refine ⟨fun long => ?_, fun crc' short same wrong => ?_, fun k short same hk => ?_⟩
  · have discards := commandFrame_discards (p := p) (sup := s.isSupervisor p) (bytes := [code, tag]) rx
      (parts fun long => by simp at long) (rxByte_of_long rx (by simp [PortState.received, empty]) long) more scl
    rw [List.cons_append, List.singleton_append, drop_eq, if_pos rx] at discards
    obtain ⟨t, event, frame, others, port⟩ := portEvent_makes running time discards
    refine ⟨t, event, frame, others, ?_⟩
    rw [port]
    exact ⟨rfl, rfl, rfl, rfl, rfl, rfl, rfl⟩
  · have refused : ((s.port p).received (code :: tag :: length :: bytes)).rxByte p (s.isSupervisor p) crc' =
        ((s.port p).received (code :: tag :: length :: bytes)).reject := by
      rw [rxByte_crc rx empty same, PortState.crcReceived, received_crc _ crc,
        if_neg fun right => wrong (Option.some.inj right).symm]
    have discards := commandFrame_discards rx (parts (partOfFrame_whole code tag short same)) refused more scl
    rw [List.cons_append, List.cons_append, List.cons_append, drop_eq, if_pos rx] at discards
    obtain ⟨t, event, frame, others, port⟩ := portEvent_makes running time discards
    refine ⟨t, event, frame, others, ?_⟩
    rw [port]
    exact ⟨rfl, rfl, rfl, rfl, rfl, rfl, rfl⟩
  · obtain ⟨timer, ack, sda, phase, -⟩ := commandFrame_part (p := p) (sup := s.isSupervisor p) rx
      (parts ((partOfFrame_whole code tag short same).take k)) scl
    obtain ⟨t, event, frame, others, port⟩ := portEvent_makes running time phase
    have count : ((code :: tag :: length :: bytes).take k).length = k := by simp [same]; omega
    have receiving : (t.port p).txn = .rx := by rw [port]; exact rx
    refine ⟨t, event, receiving, ?_, ?_, ?_, fun i next condition => ?_⟩
    · rw [port, PortState.received, empty]
      rfl
    · rw [port]
      exact received_crc _ crc
    · rw [port, PortState.received, count]
      rfl
    · have running' : t.inReset = false := by rw [frame]; exact running
      obtain ⟨u, event', frame', others', port'⟩ :=
        (conditionsAndTimeoutEndTheTransaction t p running').1 i next (by tauto)
      refine ⟨u, event', by rw [frame', frame], fun q other => (others' q other).trans (others q other), ?_⟩
      rw [port', if_pos receiving, port]
      exact ⟨rfl, rfl, rfl, rfl⟩

/-- Settles O58: the bytes one by one up to the CRC byte, the accept of the frame, and the edges before and after. -/
theorem commandFrameIsAccepted : Obligations.CommandFrameIsAccepted := by
  refine ⟨fun s p bytes scl time rx aside => portEvent_stands time (if_neg (by tauto)),
    fun s p bytes scl running aside given => ?_, fun s t p bytes more scl scl' given h => ?_,
    fun s p scl running time listens => ?_, fun s p code tag ps crc scl running time rx empty register short right => ?_⟩
  · obtain ⟨b, bytes, rfl⟩ := List.exists_cons_of_ne_nil given
    have rest : (s.port p).txn ≠ .rx := by simp [aside]
    refine portEvent_makes running (timedOut_of_rest (by simp [aside])) ((commandFrame_cons (.inr aside) b bytes scl).trans ?_)
    rw [foldl_rxByte_rest rest]
    exact leave_of_quiet scl aside rfl rfl
  · have same : t.isSupervisor p = s.isSupervisor p := by rw [portEvent_frame h]; rfl
    have event : exec (.commandFrame p more scl) t = t.portEvent p (PortState.commandFrame p (t.isSupervisor p) more scl) := rfl
    rw [event, same]
    exact portEvent_portEvent h fun q time => commandFrame_commandFrame time bytes given scl scl'
  · exact portEvent_makes running time ((commandFrame_of_listens listens [] scl).trans (edge_of_listens scl listens))
  · have count : (byteOf ps.length).toNat = ps.length := by
      rw [byteOf, BitVec.toNat_ofNat, Nat.mod_eq_of_lt (by omega)]
    have identify : identifyBytes p (s.isSupervisor p) =
        [0x5A, 0x24, 0x01, byteOf p.val, if s.supervisor = some p then 1 else 0, 16, 8, 32] := by
      simp only [identifyBytes, levelByte, State.isSupervisor, beq_iff_eq]
      rfl
    have acks : ((s.port p).whole (code :: tag :: byteOf ps.length :: (ps ++ [crc]))).acks =
        (s.port p).acks ++ List.replicate (ps.length + 4) true := by
      simp [PortState.whole]
    have accepts := commandFrame_accepts (p := p) (sup := s.isSupervisor p) rx empty register (by rw [count]; exact short)
      count.symm right scl
    rw [accept_slotOnly, leave_of_accepted scl rfl rfl rfl] at accepts
    obtain ⟨t, event, frame, others, port⟩ := portEvent_makes running time accepts
    refine ⟨t, event, frame, others, ?_⟩
    rw [port]
    refine ⟨rfl, rfl, acks, rfl, rfl, rfl, rfl, fun _ _ pending => ticked_accept pending, ?_⟩
    rw [← identify]
    exact slot_accept_frame rfl count.symm

end Sys2Proof.Machine
end

section
/-! PROOF. Response reads (R158, R172, R176): the bytes of the image with the host's answers, and the edges of SCL between
them. -/

namespace Sys2Proof.Machine

section

variable {q : PortState} {bytes : List Byte} {k bit : Nat}

/-- R172: after the last byte of the image comes filler. -/
theorem getD_min_length (bytes : List Byte) (k : Nat) :
    bytes.getD (min k bytes.length) (0xFF : Byte) = bytes.getD k 0xFF := by
  rcases Nat.le_total k bytes.length with within | past
  · rw [Nat.min_eq_left within]
  · rw [Nat.min_eq_right past, List.getD_eq_default _ _ past, List.getD_eq_default _ _ (Nat.le_refl _)]

/-- R172: out of TX no byte is sent. -/
theorem foldl_txByte_rest (rest : q.txn ≠ .tx) (answers : List Bool) : answers.foldl PortState.txByte q = q := by
  have stands : ∀ answer, q.txByte answer = q := fun answer => by
    unfold PortState.txByte
    split
    · rename_i tx _
      exact absurd tx rest
    · rfl
  induction answers with
  | nil => rfl
  | cons answer answers ih => rw [List.foldl_cons, stands, ih]

/-- R172: the host's NACK ends the transmission, after the bytes that it acknowledged. -/
theorem foldl_txByte_nack (tx : q.txn = .tx) (image : q.image = some ⟨bytes, k, bit⟩) (within : k ≤ bytes.length)
    (n : Nat) (more : List Bool) : (List.replicate n true ++ false :: more).foldl PortState.txByte q = { q.idle .aside with
      sent := q.sent ++ (bytes.drop k ++ List.replicate (n + 1) 0xFF).take (n + 1) } := by
  induction n generalizing q k bit with
  | zero =>
    have nack : q.txByte false = { q.idle .aside with sent := q.sent ++ [bytes.getD k 0xFF] } := by
      simp [PortState.txByte, tx, image, Image.current]
    rw [take_filled bytes within, List.replicate_zero, List.nil_append, List.foldl_cons, nack]
    refine (foldl_txByte_rest ?_ more).trans ?_
    · simp [PortState.idle]
    · simp
  | succ n ih =>
    rw [List.replicate_succ, List.cons_append, List.foldl_cons, txByte_ack tx image, take_filled bytes within]
    refine (ih (bit := 0) (k := min (k + 1) bytes.length) ?_ ?_ (Nat.min_le_right _ _)).trans ?_
    · exact tx
    · rfl
    · simp [PortState.idle]

/-- R176: the bus timer after the host's answer to a byte. -/
theorem answerTimer_eq (tx : q.txn = .tx) : q.answerTimer ⟨bytes, k, bit⟩ =
    ⟨if bit = 8 ∧ (q.ack = .driven ∨ q.ack = .absent ∧ q.timer.running = true) then q.timer.remaining else 25, false⟩ := by
  have low : q.sclLow = true ↔ q.ack = .driven ∨ q.ack = .absent ∧ q.timer.running = true := by
    unfold PortState.sclLow
    split <;> rename_i ack <;> simp [ack, PortState.inTransaction, tx]
  have whole : (q.sclLow && bit == 8) = true ↔ bit = 8 ∧ (q.ack = .driven ∨ q.ack = .absent ∧ q.timer.running = true) := by
    rw [Bool.and_eq_true, low, beq_iff_eq, and_comm]
  unfold PortState.answerTimer
  simp only [whole]
  split <;> rfl

/-- R172: a response read in TX is the bytes it answers, or an edge of SCL. -/
theorem responseRead_of_tx (tx : q.txn = .tx) (answers : List Bool) (scl : Scl) :
    q.responseRead answers scl = q.transmit answers scl := by
  rw [PortState.responseRead, tx]

theorem responseRead_of_aside (aside : q.txn = .aside) (answers : List Bool) (scl : Scl) :
    q.responseRead answers scl = q.passBytes answers scl := by
  rw [PortState.responseRead, aside]

theorem responseRead_of_other (tx : q.txn ≠ .tx) (aside : q.txn ≠ .aside) (answers : List Bool) (scl : Scl) :
    q.responseRead answers scl = q := by
  unfold PortState.responseRead
  cases txn : q.txn with
  | tx => exact absurd txn tx
  | aside => exact absurd txn aside
  | waiting | addressing | rx => rfl

/-- R172: the bytes that the host acknowledges. -/
theorem transmit_acks (scl : Scl) (tx : q.txn = .tx) (image : q.image = some ⟨bytes, k, bit⟩) (within : k ≤ bytes.length)
    (n : Nat) : q.transmit (List.replicate (n + 1) true) scl = { q with
      image := some ⟨bytes, min (k + (n + 1)) bytes.length, 0⟩
      timer := match scl with
        | .low => ⟨25, true⟩
        | .high =>
          ⟨if bit = 8 ∧ n = 0 ∧ (q.ack = .driven ∨ q.ack = .absent ∧ q.timer.running = true) then q.timer.remaining else 25,
            false⟩
      ack := .absent
      sda := match scl with
        | .low => bitOnSda (bytes.getD (k + (n + 1)) 0xFF) 0
        | .high => .released
      sent := q.sent ++ (bytes.drop k ++ List.replicate (n + 1) 0xFF).take (n + 1) } := by
  have sent := txBytes_acks tx image within n
  unfold PortState.transmit
  rw [if_neg (by simp [List.replicate_succ]), sent]
  cases scl with
  | low =>
    rw [PortState.leave]
    refine (fall_of_tx (bytes := bytes) (k := min (k + (n + 1)) bytes.length) (bit := 0) ?_ ?_ ?_).trans ?_
    · exact tx
    · simp
    · rfl
    · rw [getD_min_length]
  | high =>
    rw [answerTimer_eq tx]
    cases n with
    | zero => simp [PortState.leave]
    | succ n => simp [PortState.leave, BusTimer.entry, busTimeoutMs]

/-- R172: the bytes up to the host's NACK. -/
theorem transmit_nack (scl : Scl) (tx : q.txn = .tx) (image : q.image = some ⟨bytes, k, bit⟩) (within : k ≤ bytes.length)
    (n : Nat) (more : List Bool) : q.transmit (List.replicate n true ++ false :: more) scl = { q.idle .aside with
      sent := q.sent ++ (bytes.drop k ++ List.replicate (n + 1) 0xFF).take (n + 1) } := by
  unfold PortState.transmit
  rw [if_neg (by simp), foldl_txByte_nack tx image within]
  exact leave_of_quiet scl rfl rfl rfl

/-- R158: the edges of a byte that the port sends. -/
theorem transmit_bit (scl : Scl) {clocked : Nat} (tx : q.txn = .tx) (ack : q.ack = .absent)
    (image : q.image = some ⟨bytes, k, bit⟩) (taken : clocked = if q.timer.running then bit + 1 else bit)
    (more : clocked ≤ 8) : q.transmit [] scl = { q with
      image := some ⟨bytes, k, clocked⟩
      timer := match scl with
        | .low => ⟨25, true⟩
        | .high => ⟨q.timer.remaining, false⟩
      sda := match scl with
        | .low => bitOnSda (bytes.getD k 0xFF) clocked
        | .high => q.sda } := by
  refine (edge_of_bits scl tx ack image).trans ?_
  cases runs : q.timer.running with
  | true =>
    rw [runs, if_pos rfl] at taken
    subst taken
    rw [if_pos rfl, if_neg (by omega)]
    cases scl with
    | low =>
      refine (fall_of_tx (bytes := bytes) (k := k) (bit := bit + 1) ?_ ?_ ?_).trans ?_
      · exact tx
      · simp [ack]
      · rfl
      · rw [← ack]
    | high => rfl
  | false =>
    rw [runs, if_neg Bool.false_ne_true] at taken
    subst taken
    rw [if_neg Bool.false_ne_true]
    cases scl with
    | low => rw [PortState.leave, fall_of_tx tx (by simp [ack]) image, ← ack, ← image]
    | high => rw [PortState.leave, ← runs, ← image]

/-- R158: the ninth clock does not rise without the host's answer. -/
theorem transmit_ninth (scl : Scl) (tx : q.txn = .tx) (ack : q.ack = .absent) (image : q.image = some ⟨bytes, k, 8⟩)
    (runs : q.timer.running = true) : q.transmit [] scl = q := by
  refine (edge_of_bits scl tx ack image).trans ?_
  rw [if_pos runs, if_pos (Nat.le_refl 8)]

end

/-- Settles O60: the bytes of the image one by one, and the edges of a byte bit by bit. -/
theorem responseReadSendsTheImage : Obligations.ResponseReadSendsTheImage := by
  have quiet : ∀ {s : State} {p : Host}, (s.port p).txn = .aside → (s.port p).timedOut = false := fun aside =>
    timedOut_of_rest (by simp [aside])
  refine ⟨fun s p answers scl time tx aside => portEvent_stands time (responseRead_of_other tx aside answers scl),
    fun s p scl aside => ?_, fun s p answers scl running aside answered => ?_,
    fun s p bytes k bit n scl running time tx image within bits => ?_⟩
  · refine portEvent_congr ?_
    rw [takeTimeout_of_time (quiet aside), responseRead_of_aside aside, commandFrame_of_listens (.inr aside)]
    rfl
  · refine portEvent_makes running (quiet aside) ((responseRead_of_aside aside answers scl).trans ?_)
    rw [PortState.passBytes, if_neg (by simpa using answered)]
  have sends := responseRead_of_tx tx
  refine ⟨?_, fun more => ?_, fun ack => ?_, fun clocked ack taken => ⟨fun ninth => ?_, fun more => ?_⟩⟩
  · exact portEvent_makes running time ((sends _ scl).trans (transmit_acks scl tx image within n))
  · exact portEvent_makes running time ((sends _ scl).trans (transmit_nack scl tx image within n more))
  · exact portEvent_makes running time ((sends [] scl).trans (edge_of_tx_ack scl tx ack image))
  · have runs : (s.port p).timer.running = true := by
      by_contra stands
      rw [if_neg stands] at taken
      omega
    rw [if_pos runs] at taken
    obtain rfl : bit = 8 := by omega
    exact portEvent_stands time ((sends [] scl).trans (transmit_ninth scl tx ack image runs))
  · exact portEvent_makes running time ((sends [] scl).trans (transmit_bit scl tx ack image taken more))

end Sys2Proof.Machine
end

section
/-! PROOF. Device reset by its cause (R189): power-on, and a low pulse on RST# in each of the three ranges of its length. -/

namespace Sys2Proof.Machine

section

variable {s : State} {ns : Nat}

/-- R189: what a low pulse on RST# does is decided by its length. -/
theorem exec_rstLow (s : State) (ns : Nat) : exec (.deviceReset (.rstLow ns)) s = .next (s.pulseReset ns) := rfl

/-- R189: a pulse of 10 µs or more resets the part. -/
theorem pulseReset_of_long (long : 10000 ≤ ns) : s.pulseReset ns = s.enterReset := if_pos long

/-- R189: a pulse shorter than 1 µs has no effect. -/
theorem pulseReset_of_short (short : ns < 1000) : s.pulseReset ns = s := by
  rw [State.pulseReset, if_neg (by omega), if_pos short]

/-- R189: the effect of a pulse between the two is open (log entry 1). -/
theorem pulseReset_of_between (least : 1000 ≤ ns) (below : ns < 10000) : s.pulseReset ns = s.shortPulse := by
  rw [State.pulseReset, if_neg (by omega), if_neg (by omega)]

/-- Log entry 1: whichever the free value decides, the pulse has used one free value. -/
theorem shortPulse_cases (s : State) : s.shortPulse = { s.enterReset with freeCount := s.freeCount + 1 } ∨
    s.shortPulse = { s with freeCount := s.freeCount + 1 } := by
  cases choice : Config.shortPulseResets s.freeCount with
  | true => exact .inl (if_pos choice)
  | false => exact .inr (if_neg (Bool.eq_false_iff.mp choice))

end

/-- Settles O15, by the length of the pulse: each range has its own equation of `State.pulseReset`, and in the open one the
free value leaves the two outcomes of `shortPulse_cases`. -/
theorem deviceResetByPulseLength : Obligations.DeviceResetByPulseLength := by
  intro s ns
  refine ⟨⟨s.enterReset, rfl, rfl⟩, fun long => ?_, fun short => ?_, fun least below => ⟨s.shortPulse, ?_, ?_⟩, rfl⟩
  · rw [exec_rstLow, pulseReset_of_long long]
  · rw [exec_rstLow, pulseReset_of_short short]
  · rw [exec_rstLow, pulseReset_of_between least below]
  · obtain resets | stands := shortPulse_cases s
    · rw [resets]
      exact .inl rfl
    · rw [stands]
      exact .inr rfl

end Sys2Proof.Machine
end

section
/-! PROOF. One step: the command at the front of the queue is taken with the queue's rest, and an empty queue idles (log
entry 4). -/

namespace Sys2Proof.Machine

section

variable {s : State}

theorem step_of_pending_nil (empty : s.pending = []) : step s = .next s := by
  rw [step, empty]

theorem step_of_pending_cons {c : Instr} {rest : List Instr} (queue : s.pending = c :: rest) :
    step s = exec c { s with pending := rest } := by
  rw [step, queue]

end

/-- Settles O1, by the equation of `step` for each form of the queue. -/
theorem stepTakesTheFrontCommand : Obligations.StepTakesTheFrontCommand :=
  ⟨fun _ _ _ => step_of_pending_cons, fun _ => step_of_pending_nil⟩

end Sys2Proof.Machine
end
